-- ==== Sys2Proof/Word.lean ====
section
/-! DEFINITION. The machine's word and address types (spec 00_scope.md rules R2, R3). -/

namespace Sys2Proof

/-- R2: every register, memory location, opcode word and operand word is one 16-bit word;
R3: an address is 16 bits and names one word. Arithmetic on it is modulo 2^16 (R5). -/
abbrev Word := BitVec 16

/-- Half of a word: the `mode` and `op` bytes of an opcode word (R51), the bytes of AC (R31), and one
cell of the memory list. -/
abbrev Byte := BitVec 8

end Sys2Proof
end

