-- ==== Sys2Proof/Syntax.lean ====
section
/-! DEFINITION. The 73 instructions of the D16/M and the 13 operand forms (30_encoding.md R52 to R55). -/

namespace Sys2Proof

/-- The register an indexed form adds to the base address (R53: `s` = 1, 2, 3). -/
inductive Index where
  | ix
  | iy
  | sp
deriving DecidableEq, Repr

/-- The 13 operand forms of a two-word instruction (R52, R61 to R67). -/
inductive Form where
  /-- `MNE m` (R61) -/
  | immediate
  /-- `MNE (m)` (R62) -/
  | direct
  /-- `MNE [m]` (R63) -/
  | indirect
  /-- `MNE [m++]` (R64) -/
  | postInc
  /-- `MNE (m+X)` (R65) -/
  | indexed (x : Index)
  /-- `MNE [m+X]` (R66) -/
  | indirectIndexed (x : Index)
  /-- `MNE [(m++)+X]` (R67) -/
  | postIncIndexed (x : Index)
deriving DecidableEq, Repr

/-- The four sets of forms the source lists (R55). -/
inductive FormSet where
  /-- all 13 -/
  | f13
  /-- without immediate: stores, input, output -/
  | f12
  /-- without immediate and `[m++]`: ISZ, DSZ -/
  | f11
  /-- the four forms without an index: CSR -/
  | f4
deriving DecidableEq, Repr

/-- One constructor per mnemonic of spec/opcode_table.json. A two-word instruction carries its form and
its operand word `m` (R50). -/
inductive Instr where
  -- 40: accumulator and carry flag
  | inc | dec | com | neg | set | clr | shl | lsr | asr | rol | ror | lsw | scf | ccf
  -- 41: stack
  | psa | poa | psf | pof
  -- 42: control
  | eni | dii | rtn | rti | nop
  -- 41: registers
  | inx | iny | ins | dex | dey | des | max | may | mas | mxa | mya | msa
  | psx | pox | psy | poy
  -- 40: bytes of the accumulator
  | bsw | bsl | bsr
  -- 42: software interrupt and halt
  | brk | hlt
  -- 43: load and store AC, SP
  | lda (f : Form) (m : Word) | lds (f : Form) (m : Word)
  | sta (f : Form) (m : Word) | sts (f : Form) (m : Word)
  -- 44: arithmetic and logic
  | add (f : Form) (m : Word) | adc (f : Form) (m : Word)
  | sub (f : Form) (m : Word) | sbc (f : Form) (m : Word)
  | and (f : Form) (m : Word) | ora (f : Form) (m : Word) | xor (f : Form) (m : Word)
  -- 45: skips
  | isz (f : Form) (m : Word) | dsz (f : Form) (m : Word)
  -- 46: jumps and call
  | jmp (f : Form) (m : Word) | joz (f : Form) (m : Word) | jnz (f : Form) (m : Word)
  | jpl (f : Form) (m : Word) | jmi (f : Form) (m : Word) | joc (f : Form) (m : Word)
  | jnc (f : Form) (m : Word) | jov (f : Form) (m : Word) | jnv (f : Form) (m : Word)
  | csr (f : Form) (m : Word)
  -- 48: input and output
  | inp (f : Form) (m : Word) | out (f : Form) (m : Word)
  -- 47: load and store IX, IY
  | ldx (f : Form) (m : Word) | ldy (f : Form) (m : Word)
  | stx (f : Form) (m : Word) | sty (f : Form) (m : Word)
deriving DecidableEq, Repr

end Sys2Proof
end

