-- ==== Sys2Proof/WellFormed.lean ====
section
/-! DEFINITION. Which operand forms each two-word instruction has (30_encoding.md R55). -/

namespace Sys2Proof

/-- The forms of each set of R55. -/
def FormSet.admits : FormSet → Form → Bool
  | .f13, _ => true
  | .f12, f => f != .immediate
  | .f11, f => f != .immediate && f != .postInc
  | .f4, .immediate => true
  | .f4, .direct => true
  | .f4, .indirect => true
  | .f4, .postInc => true
  | .f4, .indexed _ => false
  | .f4, .indirectIndexed _ => false
  | .f4, .postIncIndexed _ => false

/-- An instruction is well formed when its form is one the source lists for it (R55); a one-word
instruction has no form and always is. -/
def Instr.wf : Instr → Bool
  | .inc | .dec | .com | .neg | .set | .clr | .shl | .lsr | .asr | .rol | .ror | .lsw | .scf | .ccf
  | .psa | .poa | .psf | .pof | .eni | .dii | .rtn | .rti | .nop
  | .inx | .iny | .ins | .dex | .dey | .des | .max | .may | .mas | .mxa | .mya | .msa
  | .psx | .pox | .psy | .poy | .bsw | .bsl | .bsr | .brk | .hlt => true
  | .lda f _ | .lds f _ | .add f _ | .adc f _ | .sub f _ | .sbc f _ | .and f _ | .ora f _ | .xor f _
  | .jmp f _ | .joz f _ | .jnz f _ | .jpl f _ | .jmi f _ | .joc f _ | .jnc f _ | .jov f _ | .jnv f _
  | .ldx f _ | .ldy f _ => FormSet.f13.admits f
  | .sta f _ | .sts f _ | .stx f _ | .sty f _ | .inp f _ | .out f _ => FormSet.f12.admits f
  | .isz f _ | .dsz f _ => FormSet.f11.admits f
  | .csr f _ => FormSet.f4.admits f

end Sys2Proof
end

