-- ==== Sys2Proof/Decode.lean ====
section
/-! DEFINITION. The decoder, written from the tables of 30_encoding.md R52 to R55, and after it the encoder. -/

namespace Sys2Proof

/-- R51: bits 15:8 of an opcode word, the addressing form. -/
def modeByte (w : Word) : Byte := w.extractLsb' 8 8

/-- R51: bits 7:0 of an opcode word, the operation. -/
def opByte (w : Word) : Byte := w.extractLsb' 0 8

/-- R52: the 13 `mode` bytes of the two-word forms (0x00 is the implied form). -/
def formRows : List (Byte × Form) :=
  [(0x03, .immediate), (0x01, .direct), (0x05, .indirect), (0x0D, .postInc),
   (0x11, .indexed .ix), (0x21, .indexed .iy), (0x31, .indexed .sp),
   (0x15, .indirectIndexed .ix), (0x25, .indirectIndexed .iy), (0x35, .indirectIndexed .sp),
   (0x1D, .postIncIndexed .ix), (0x2D, .postIncIndexed .iy), (0x3D, .postIncIndexed .sp)]

/-- The form a `mode` byte names; none outside R52. -/
def formOfMode (b : Byte) : Option Form := formRows.lookup b

/-- R54: the `op` bytes of the one-word instructions. -/
def impliedRows : List (Byte × Instr) :=
  [(0x1A, .inc), (0x1B, .dec), (0x1C, .com), (0x1D, .neg), (0x1E, .set), (0x1F, .clr),
   (0x20, .shl), (0x21, .lsr), (0x22, .asr), (0x23, .rol), (0x24, .ror), (0x25, .lsw),
   (0x26, .scf), (0x27, .ccf), (0x28, .psa), (0x29, .poa), (0x2A, .psf), (0x2B, .pof),
   (0x2C, .eni), (0x2D, .dii), (0x2E, .rtn), (0x2F, .rti), (0x30, .nop),
   (0x35, .inx), (0x36, .iny), (0x37, .ins), (0x38, .dex), (0x39, .dey), (0x3A, .des),
   (0x3B, .max), (0x3C, .may), (0x3D, .mas), (0x3E, .mxa), (0x3F, .mya), (0x40, .msa),
   (0x41, .psx), (0x42, .pox), (0x43, .psy), (0x44, .poy), (0x45, .bsw), (0x46, .bsl),
   (0x47, .bsr), (0x48, .brk), (0xFF, .hlt)]

/-- A two-word row of R54: the set of forms the source lists, and the instruction. -/
structure OperandRow where
  forms : FormSet
  make : Form → Word → Instr

/-- R54, R55: the `op` bytes of the two-word instructions. -/
def operandRows : List (Byte × OperandRow) :=
  [(0x01, ⟨.f13, .lda⟩), (0x02, ⟨.f13, .lds⟩), (0x03, ⟨.f12, .sta⟩), (0x04, ⟨.f12, .sts⟩),
   (0x05, ⟨.f13, .add⟩), (0x06, ⟨.f13, .adc⟩), (0x07, ⟨.f13, .sub⟩), (0x08, ⟨.f13, .sbc⟩),
   (0x09, ⟨.f13, .and⟩), (0x0A, ⟨.f13, .ora⟩), (0x0B, ⟨.f13, .xor⟩),
   (0x0C, ⟨.f11, .isz⟩), (0x0D, ⟨.f11, .dsz⟩),
   (0x0E, ⟨.f13, .jmp⟩), (0x0F, ⟨.f13, .joz⟩), (0x10, ⟨.f13, .jnz⟩), (0x11, ⟨.f13, .jpl⟩),
   (0x12, ⟨.f13, .jmi⟩), (0x13, ⟨.f13, .joc⟩), (0x14, ⟨.f13, .jnc⟩), (0x15, ⟨.f13, .jov⟩),
   (0x16, ⟨.f13, .jnv⟩), (0x17, ⟨.f4, .csr⟩), (0x18, ⟨.f12, .inp⟩), (0x19, ⟨.f12, .out⟩),
   (0x31, ⟨.f13, .ldx⟩), (0x32, ⟨.f13, .ldy⟩), (0x33, ⟨.f12, .stx⟩), (0x34, ⟨.f12, .sty⟩)]

/-- What an opcode word says before its operand word is read: a whole one-word instruction, or a two-word
instruction that waits for `m`. -/
inductive OpcodeMeaning where
  | implied (i : Instr)
  | operand (make : Word → Instr)

/-- R51, R56: an opcode word is matched whole; a word outside the 402 means nothing. -/
def opcodeMeaning (w : Word) : Option OpcodeMeaning :=
  if modeByte w = 0x00 then
    (impliedRows.lookup (opByte w)).map .implied
  else
    match formOfMode (modeByte w), operandRows.lookup (opByte w) with
    | some f, some row => if row.forms.admits f then some (.operand (row.make f)) else none
    | _, _ => none

/-- R57: `Len(w)`, from the opcode word alone; none when `w` spells no instruction. -/
def opcodeLength (w : Word) : Option Nat :=
  match opcodeMeaning w with
  | some (.implied _) => some 1
  | some (.operand _) => some 2
  | none => none

/-- Why words do not decode. -/
inductive DecodeError where
  /-- the opcode word is not one of the 402 (R56) -/
  | undefinedOpcode (w : Word)
  /-- the opcode word takes an operand word and none follows -/
  | missingOperand (w : Word)
  /-- there is no word at all -/
  | noWord
deriving DecidableEq, Repr

/-- Reads one instruction off the front of a list of words, opcode word first (R50), and gives the words
that are left. -/
def decode : List Word → Except DecodeError (Instr × List Word)
  | [] => .error .noWord
  | w :: rest =>
    match opcodeMeaning w, rest with
    | none, _ => .error (.undefinedOpcode w)
    | some (.implied i), _ => .ok (i, rest)
    | some (.operand _), [] => .error (.missingOperand w)
    | some (.operand make), m :: rest' => .ok (make m, rest')

/-- The instruction the decoder reads from the bits `w` of a row of spec/opcode_table.json: bits 15..0 are
the opcode word and bits 31..16 the operand word; bits from `nbits` on are 0. -/
def decodeTableWord (nbits w : Nat) : Option Instr :=
  let bits := w % 2 ^ nbits
  match decode [BitVec.ofNat 16 bits, BitVec.ofNat 16 (bits / 2 ^ 16)] with
  | .ok (i, _) => some i
  | .error _ => none

/-! The encoder. -/

/-- R52: the `mode` byte of a form. -/
def Form.mode : Form → Byte
  | .immediate => 0x03
  | .direct => 0x01
  | .indirect => 0x05
  | .postInc => 0x0D
  | .indexed .ix => 0x11
  | .indexed .iy => 0x21
  | .indexed .sp => 0x31
  | .indirectIndexed .ix => 0x15
  | .indirectIndexed .iy => 0x25
  | .indirectIndexed .sp => 0x35
  | .postIncIndexed .ix => 0x1D
  | .postIncIndexed .iy => 0x2D
  | .postIncIndexed .sp => 0x3D

/-- R54: the `op` byte of an instruction. -/
def Instr.op : Instr → Byte
  | .lda _ _ => 0x01
  | .lds _ _ => 0x02
  | .sta _ _ => 0x03
  | .sts _ _ => 0x04
  | .add _ _ => 0x05
  | .adc _ _ => 0x06
  | .sub _ _ => 0x07
  | .sbc _ _ => 0x08
  | .and _ _ => 0x09
  | .ora _ _ => 0x0A
  | .xor _ _ => 0x0B
  | .isz _ _ => 0x0C
  | .dsz _ _ => 0x0D
  | .jmp _ _ => 0x0E
  | .joz _ _ => 0x0F
  | .jnz _ _ => 0x10
  | .jpl _ _ => 0x11
  | .jmi _ _ => 0x12
  | .joc _ _ => 0x13
  | .jnc _ _ => 0x14
  | .jov _ _ => 0x15
  | .jnv _ _ => 0x16
  | .csr _ _ => 0x17
  | .inp _ _ => 0x18
  | .out _ _ => 0x19
  | .inc => 0x1A
  | .dec => 0x1B
  | .com => 0x1C
  | .neg => 0x1D
  | .set => 0x1E
  | .clr => 0x1F
  | .shl => 0x20
  | .lsr => 0x21
  | .asr => 0x22
  | .rol => 0x23
  | .ror => 0x24
  | .lsw => 0x25
  | .scf => 0x26
  | .ccf => 0x27
  | .psa => 0x28
  | .poa => 0x29
  | .psf => 0x2A
  | .pof => 0x2B
  | .eni => 0x2C
  | .dii => 0x2D
  | .rtn => 0x2E
  | .rti => 0x2F
  | .nop => 0x30
  | .ldx _ _ => 0x31
  | .ldy _ _ => 0x32
  | .stx _ _ => 0x33
  | .sty _ _ => 0x34
  | .inx => 0x35
  | .iny => 0x36
  | .ins => 0x37
  | .dex => 0x38
  | .dey => 0x39
  | .des => 0x3A
  | .max => 0x3B
  | .may => 0x3C
  | .mas => 0x3D
  | .mxa => 0x3E
  | .mya => 0x3F
  | .msa => 0x40
  | .psx => 0x41
  | .pox => 0x42
  | .psy => 0x43
  | .poy => 0x44
  | .bsw => 0x45
  | .bsl => 0x46
  | .bsr => 0x47
  | .brk => 0x48
  | .hlt => 0xFF

/-- The operand of a two-word instruction: its form and its operand word; none for a one-word one. -/
def Instr.operand : Instr → Option (Form × Word)
  | .inc | .dec | .com | .neg | .set | .clr | .shl | .lsr | .asr | .rol | .ror | .lsw | .scf | .ccf
  | .psa | .poa | .psf | .pof | .eni | .dii | .rtn | .rti | .nop
  | .inx | .iny | .ins | .dex | .dey | .des | .max | .may | .mas | .mxa | .mya | .msa
  | .psx | .pox | .psy | .poy | .bsw | .bsl | .bsr | .brk | .hlt => none
  | .lda f m | .lds f m | .sta f m | .sts f m | .add f m | .adc f m | .sub f m | .sbc f m
  | .and f m | .ora f m | .xor f m | .isz f m | .dsz f m | .jmp f m | .joz f m | .jnz f m
  | .jpl f m | .jmi f m | .joc f m | .jnc f m | .jov f m | .jnv f m | .csr f m
  | .inp f m | .out f m | .ldx f m | .ldy f m | .stx f m | .sty f m => some (f, m)

/-- R51: the opcode word, `mode` byte then `op` byte. For an ill-formed instruction it is the undefined
word its form would have (R55). -/
def Instr.opcodeWord (i : Instr) : Word :=
  match i.operand with
  | none => (0x00 : Byte) ++ i.op
  | some (f, _) => f.mode ++ i.op

/-- R50: the words of an instruction, opcode word first. -/
def encode (i : Instr) : List Word :=
  match i.operand with
  | none => [i.opcodeWord]
  | some (_, m) => [i.opcodeWord, m]

end Sys2Proof
end

