-- ==== Sys2Proof/Config.lean ====
section
/-! DEFINITION. What an implementation of the D16/M fixes: the parameters of 00_scope.md rule R4, and the
free values (`any_1`, `any_16`) of 93_implementation_defined.md. -/

namespace Sys2Proof

/-- `STACK_MODEL` (R4, 20_memory.md R44): direction of growth, and whether SP points at the last word
pushed (full) or at the next free word (empty). -/
inductive StackModel where
  | fullDescending
  | emptyDescending
  | fullAscending
  | emptyAscending
deriving DecidableEq, Repr

/-- `SUB_CARRY` (R4, R159): what CF holds after a subtraction, and what SBC subtracts. -/
inductive SubCarry where
  | borrow
  | notBorrow
deriving DecidableEq, Repr

/-- `FLAGS_ACC_UNARY` (R4, R99): the flags after INC, DEC, NEG. -/
inductive AccUnaryFlags where
  | any
  | arithmetic
  | unchanged
deriving DecidableEq, Repr

/-- `FLAGS_LOGIC` (R4, R99): the flags after COM, AND, ORA, XOR. -/
inductive LogicFlags where
  | any
  | unchanged
deriving DecidableEq, Repr

/-- `FLAGS_STEP` (R4, R99): the flags after INX INY INS DEX DEY DES ISZ DSZ. -/
inductive StepFlags where
  | unchanged
  | any
deriving DecidableEq, Repr

/-- What a trap frame may hold (R4 `TRAP_FRAME`, R203). -/
inductive FrameItem where
  | pc
  | fr
  | ac
  | ix
  | iy
deriving DecidableEq, Repr

/-- `TRAP_ENTRY_MODE` (R4, R203): whether the handler address holds code or the handler's address. -/
inductive TrapEntryMode where
  | direct
  | vectored
deriving DecidableEq, Repr

/-- What `MEM_MAP` gives an address (R4, R36). -/
inductive MemKind where
  | ram
  | rom
  | absent
deriving DecidableEq, Repr

/-- One range of `MEM_MAP`: the addresses `first` to `last`, both included. -/
structure Region where
  first : Word
  last : Word
  kind : MemKind
deriving DecidableEq, Repr

/-- The OPEN parameters of R4, as plain data. `memMap` is the function `MEM_MAP` written as ranges: the
first range that holds an address gives its kind, and an address in no range is `ram` (any function of
the 65,536 addresses can be written so). -/
structure Params where
  stackModel : StackModel
  subCarry : SubCarry
  flagsAccUnary : AccUnaryFlags
  flagsLogic : LogicFlags
  flagsStep : StepFlags
  frCfBit : Fin 16
  frOvfBit : Fin 16
  trapFrame : List FrameItem
  trapEntryMode : TrapEntryMode
  irqAddress : Word
  resetPc : Word
  memMap : List Region
deriving DecidableEq, Repr

/-- The defaults the spec lists in R4. -/
def Params.defaults : Params where
  stackModel := .fullDescending
  subCarry := .borrow
  flagsAccUnary := .any
  flagsLogic := .any
  flagsStep := .unchanged
  frCfBit := 0
  frOvfBit := 1
  trapFrame := [.pc, .fr]
  trapEntryMode := .direct
  irqAddress := 0xFFFE
  resetPc := 0x0000
  memMap := []

/-- `any_16`: draw number `n` of a word the spec does not fix (93_implementation_defined.md). No body:
nothing can be proved of its value. -/
opaque Config.anyWord : Nat → Word

/-- `any_1`: draw number `n` of a bit the spec does not fix. No body. -/
opaque Config.anyBit : Nat → Bool

/-- The contents, fixed at reset, of a memory cell that neither the environment loaded nor the program
wrote (R36, R231 treatment (a), U5). No body. -/
opaque Config.unwrittenByte : Nat → Byte

end Sys2Proof
end

