-- ==== Sys2Proof/Machine/State.lean ====
section
/-! DEFINITION. The state of the D16/M (10_state.md), its faults and refusals, and the state after reset. -/

namespace Sys2Proof.Machine

/-- Memory (R21, R30) as cells in strictly rising key order. The word at address `a` is two cells: key
`2a` holds its bits 7:0 and key `2a + 1` its bits 15:8. The spec gives memory no byte order (R31): the
split is a representation no access can see (DESIGN CHOICE, log entry 5). A cell that is not listed has
been neither loaded nor written. -/
abbrev Memory := List Host.Cell

/-- R37: one access to the I/O space, by INP or OUT. -/
inductive IoEvent where
  /-- `IoRead(port)` answered `value` -/
  | read (port value : Word)
  /-- `IoWrite(port, value)` -/
  | write (port value : Word)
deriving DecidableEq, Repr

/-- The machine state. `ac` to `mem` are the spec's (10_state.md section 1); `ioLog` is the record of I/O
events R37 asks a model for; the three scripts are what the environment will present (R6), and `draws` and
`params` are the model's own. -/
structure State where
  /-- Accumulator (R10) -/
  ac : Word
  /-- Index Register IX (R11) -/
  ix : Word
  /-- Index Register IY (R11) -/
  iy : Word
  /-- Stack Pointer, third index register (R12) -/
  sp : Word
  /-- program counter (R13) -/
  pc : Word
  /-- Carry Flag (R14) -/
  cf : Bool
  /-- overflow flag (R15) -/
  ovf : Bool
  /-- interrupt enable (R17) -/
  ie : Bool
  /-- processor halted (R18) -/
  halt : Bool
  /-- memory `M` (R21) -/
  mem : Memory
  /-- every I/O access so far, oldest first (R37) -/
  ioLog : List IoEvent
  /-- the words the Switch Register will show at the coming LSWs, next first (R19: a host-supplied
  function of time); when it is empty each LSW reads a free value -/
  switchScript : List Word
  /-- the answers of the coming I/O reads, next first (R37: a host-supplied device); when it is empty each
  read gets a free value -/
  portScript : List Word
  /-- the levels of `irq` at the coming instruction boundaries, next first (R20, R207); when it is empty
  each boundary sees a free value -/
  irqScript : List Bool
  /-- how many free values have been drawn: the argument of `Config.anyWord` and `Config.anyBit` -/
  draws : Nat
  /-- the OPEN parameters (R4) this machine is built with; no step changes them -/
  params : Params
deriving DecidableEq, Repr

/-- What stops the machine. None is an event of the hardware (R200). -/
inductive Fault where
  /-- Raised by the fetch (R58) and by the skip of ISZ and DSZ (R172) on a word that is not one of the 402
  (R56, R202), and by the meaning of an ill-formed instruction term, whose opcode word is one of those.
  `left` is the state it leaves: at a fetch the state before the instruction, in a skip the state with every
  write of the ISZ or DSZ done (R210). Safe: no claim about a final state holds of such a run. -/
  | undefinedOpcode (w : Word) (left : State)
  /-- Raised by the fetch and by the skip on an instruction word at `a` that nothing has loaded or written
  (R24, U5: a model should fault on such a fetch). `left` as above. Safe. -/
  | unloadedFetch (a : Word) (left : State)
  /-- Answered by the step of a halted machine: R58 has no step when `HALT = 1` (R146). The state is the
  final state of the run, not an error. Safe. -/
  | halted
deriving DecidableEq, Repr

/-- What the model does not run. -/
inductive Refusal where
  /-- An instruction that has no meaning yet, raised by an arm of `exec` only. Safe. -/
  | notModelled (mnemonic : String)
  /-- Parameter values the spec refuses: `FR_CF_BIT = FR_OVF_BIT` (U10), or a `TRAP_FRAME` with repeats or
  without `PC` (U17). Raised by the step, and by RTI when its frame holds no `PC`. Safe. -/
  | refusedParameters
deriving DecidableEq, Repr

/-- The three outcomes of a step on this machine. -/
abbrev Out := Host.Outcome State Fault Refusal

/-- `Reset()` (R230, R24) of a machine built with parameters `p`: PC is `RESET_PC`, IE and HALT are 0.
AC, IX, IY, SP, CF, OVF are unspecified there; the model takes zero (DESIGN CHOICE, unsafe: log entries 1
and 2). Memory lists nothing: the environment loads it. -/
def State.resetWith (p : Params) : State where
  ac := 0
  ix := 0
  iy := 0
  sp := 0
  pc := p.resetPc
  cf := false
  ovf := false
  ie := false
  halt := false
  mem := []
  ioLog := []
  switchScript := []
  portScript := []
  irqScript := []
  draws := 0
  params := p

/-- The machine right after reset, with the default parameters of R4. -/
def State.reset : State := State.resetWith Params.defaults

/-! One update per field. No update of `params`: nothing writes them. -/

def State.setAc (s : State) (v : Word) : State := { s with ac := v }

def State.setIx (s : State) (v : Word) : State := { s with ix := v }

def State.setIy (s : State) (v : Word) : State := { s with iy := v }

def State.setSp (s : State) (v : Word) : State := { s with sp := v }

def State.setPc (s : State) (v : Word) : State := { s with pc := v }

def State.setCf (s : State) (v : Bool) : State := { s with cf := v }

def State.setOvf (s : State) (v : Bool) : State := { s with ovf := v }

def State.setIe (s : State) (v : Bool) : State := { s with ie := v }

def State.setHalt (s : State) (v : Bool) : State := { s with halt := v }

def State.setMem (s : State) (v : Memory) : State := { s with mem := v }

def State.setIoLog (s : State) (v : List IoEvent) : State := { s with ioLog := v }

def State.setSwitchScript (s : State) (v : List Word) : State := { s with switchScript := v }

def State.setPortScript (s : State) (v : List Word) : State := { s with portScript := v }

def State.setIrqScript (s : State) (v : List Bool) : State := { s with irqScript := v }

def State.setDraws (s : State) (v : Nat) : State := { s with draws := v }

end Sys2Proof.Machine
end

