-- ==== Sys2Proof/Machine/Draw.lean ====
section
/-! DEFINITION. Free values and the environment's inputs (10_state.md R19, R20; 20_memory.md R37). -/

namespace Sys2Proof.Machine

/-- `any_16`: a fresh word under no law, and the state after the draw. -/
def State.drawWord (s : State) : Word × State :=
  (Config.anyWord s.draws, s.setDraws (s.draws + 1))

/-- `any_1`: a fresh bit under no law, and the state after the draw. -/
def State.drawBit (s : State) : Bool × State :=
  (Config.anyBit s.draws, s.setDraws (s.draws + 1))

/-- R19: the word the Switch Register shows at this LSW: the environment's next word, else a free value. -/
def State.readSwitches (s : State) : Word × State :=
  match s.switchScript with
  | v :: rest => (v, s.setSwitchScript rest)
  | [] => s.drawWord

/-- R37: the word a device answers an I/O read with: the environment's next answer, else a free value. -/
def State.portAnswer (s : State) : Word × State :=
  match s.portScript with
  | v :: rest => (v, s.setPortScript rest)
  | [] => s.drawWord

/-- R207: the level of `irq` at this instruction boundary: the environment's next level, else a free
value. -/
def State.sampleIrq (s : State) : Bool × State :=
  match s.irqScript with
  | b :: rest => (b, s.setIrqScript rest)
  | [] => s.drawBit

end Sys2Proof.Machine
end

