-- ==== Sys2Proof/Machine/Flags.lean ====
section
/-! DEFINITION. Flag computation: addition and subtraction with their flags (44_memref_arith_logic.md R158,
R159), the parameterised flag effects (40_zero_address_accumulator.md R99) and the Flag Register image
(10_state.md R16). -/

namespace Sys2Proof.Machine

/-- A result with its carry (or borrow) and its signed overflow. -/
structure ArithResult where
  value : Word
  carry : Bool
  overflow : Bool
deriving DecidableEq, Repr

/-- `AddC(a, b, cin)` (R158). -/
def addC (a b : Word) (cin : Bool) : ArithResult :=
  let t := a.toNat + b.toNat + cin.toNat
  let r := BitVec.ofNat 16 t
  { value := r
    carry := decide (65536 ≤ t)
    overflow := (a.msb == b.msb) && (r.msb != a.msb) }

/-- `SubB(a, b, bin)` (R159); `carry` is the borrow out `bo`. -/
def subB (a b : Word) (bin : Bool) : ArithResult :=
  let t : Int := (a.toNat : Int) - (b.toNat : Int) - (bin.toNat : Int)
  let r := BitVec.ofInt 16 t
  { value := r
    carry := decide (t < 0)
    overflow := (a.msb != b.msb) && (r.msb != a.msb) }

/-- R159: between CF and a borrow, in either direction. -/
def borrowFlag : SubCarry → Bool → Bool
  | .borrow, b => b
  | .notBorrow, b => !b

/-- Both flags at once. -/
def State.setFlags (s : State) (c v : Bool) : State := (s.setCf c).setOvf v

/-- R99 `any`: CF and OVF become two independent draws. -/
def State.freeFlags (s : State) : State :=
  let c := s.drawBit
  let v := c.2.drawBit
  v.2.setFlags c.1 v.1

/-- `FlagsAccUnary(c, v)` (R99). -/
def State.flagsAccUnary (s : State) (c v : Bool) : State :=
  match s.params.flagsAccUnary with
  | .any => s.freeFlags
  | .arithmetic => s.setFlags c v
  | .unchanged => s

/-- `FlagsLogic()` (R99). -/
def State.flagsLogic (s : State) : State :=
  match s.params.flagsLogic with
  | .any => s.freeFlags
  | .unchanged => s

/-- `FlagsStep()` (R99). -/
def State.flagsStep (s : State) : State :=
  match s.params.flagsStep with
  | .unchanged => s
  | .any => s.freeFlags

/-- `w` with bit `i` made `b`. -/
def putBit (w : Word) (i : Fin 16) (b : Bool) : Word :=
  if b then w ||| (1#16 <<< i.val) else w &&& ~~~(1#16 <<< i.val)

/-- `FRpack()` (R16): CF and OVF at their bits of a word whose other 14 bits are free. -/
def State.frPack (s : State) : Word × State :=
  let w := s.drawWord
  (putBit (putBit w.1 s.params.frCfBit s.cf) s.params.frOvfBit s.ovf, w.2)

/-- `FRunpack(w)` (R16): the other bits are ignored. -/
def State.frUnpack (s : State) (w : Word) : State :=
  s.setFlags (w.getLsbD s.params.frCfBit.val) (w.getLsbD s.params.frOvfBit.val)

end Sys2Proof.Machine
end

