-- ==== Sys2Proof/Machine/Ops.lean ====
section
/-! DEFINITION. The named operations over memory, I/O, the stack and the program counter (20_memory.md), and
trap entry and return (60_exceptions.md R203, R205). -/

namespace Sys2Proof.Machine

/-! Memory cells. -/

/-- The address space in cells: two for each of the 65,536 words (R21). -/
def Memory.size : Nat := 131072

/-- The content of the cell at key `k`; none when it was neither loaded nor written. -/
def Memory.lookup : Memory → Nat → Option Byte
  | [], _ => none
  | (k, v) :: rest, a => if k = a then some v else Memory.lookup rest a

/-- Puts `v` in the cell at key `a`, in key order. -/
def Memory.insert : Memory → Nat → Byte → Memory
  | [], a, v => [(a, v)]
  | (k, w) :: rest, a, v =>
    if a < k then (a, v) :: (k, w) :: rest
    else if a = k then (a, v) :: rest
    else (k, w) :: Memory.insert rest a v

/-- The keys are strictly rising, none is below `low`, and all are in the address space. -/
def Memory.rising : Nat → Memory → Bool
  | _, [] => true
  | low, (k, _) :: rest => decide (low ≤ k) && decide (k < Memory.size) && Memory.rising (k + 1) rest

/-- The canonical form: one list for each content of memory. -/
def Memory.wf (m : Memory) : Bool := Memory.rising 0 m

/-- The model's read of one cell: what is listed, else the free value the cell has held since reset (R36,
log entry 6). -/
def Memory.cell (m : Memory) (k : Nat) : Byte := (m.lookup k).getD (Config.unwrittenByte k)

/-- Key of the cell that holds bits 7:0 of the word at `a`. -/
def lowKey (a : Word) : Nat := 2 * a.toNat

/-- Key of the cell that holds bits 15:8 of the word at `a`. -/
def highKey (a : Word) : Nat := 2 * a.toNat + 1

/-- `M[a]` (R30). -/
def Memory.word (m : Memory) (a : Word) : Word := m.cell (highKey a) ++ m.cell (lowKey a)

/-- Memory with the word `v` at `a`. -/
def Memory.putWord (m : Memory) (a v : Word) : Memory :=
  (m.insert (lowKey a) (opByte v)).insert (highKey a) (modeByte v)

/-- Both cells of the word at `a` have been loaded or written. -/
def Memory.loaded (m : Memory) (a : Word) : Bool :=
  (m.lookup (lowKey a)).isSome && (m.lookup (highKey a)).isSome

/-! The memory map and the access primitives (R36). -/

/-- The range holds the address. -/
def inRegion (r : Region) (a : Word) : Bool := decide (r.first ≤ a) && decide (a ≤ r.last)

/-- `MEM_MAP` (R4): the kind of the first range that holds the address, else `ram`. -/
def kindAt (p : Params) (a : Word) : MemKind :=
  match p.memMap.find? (fun r => inRegion r a) with
  | some r => r.kind
  | none => .ram

/-- `MemRead(a, 1)` (R36): a read of an `absent` address draws `any_16`, any other reads `M[a]`. -/
def State.readWord (s : State) (a : Word) : Word × State :=
  match kindAt s.params a with
  | .ram => (s.mem.word a, s)
  | .rom => (s.mem.word a, s)
  | .absent => s.drawWord

/-- `MemWrite(a, 1, v)` (R36): a write to `rom` or `absent` changes nothing. -/
def State.writeWord (s : State) (a v : Word) : State :=
  match kindAt s.params a with
  | .ram => s.setMem (s.mem.putWord a v)
  | .rom => s
  | .absent => s

/-- `MemRead` of an instruction word: as `readWord`, but a word that was neither loaded nor written stops
the machine (U5). -/
def State.fetchWord (s : State) (a : Word) : Except Fault (Word × State) :=
  match kindAt s.params a with
  | .absent => .ok (s.readWord a)
  | .ram => if s.mem.loaded a then .ok (s.readWord a) else .error (.unloadedFetch a s)
  | .rom => if s.mem.loaded a then .ok (s.readWord a) else .error (.unloadedFetch a s)

/-! The I/O space (R37). -/

/-- One recorded event. -/
def State.logIo (s : State) (e : IoEvent) : State := s.setIoLog (s.ioLog ++ [e])

/-- `IoRead(p)`. -/
def State.ioRead (s : State) (p : Word) : Word × State :=
  let v := s.portAnswer
  (v.1, v.2.logIo (.read p v.1))

/-- `IoWrite(p, v)`. -/
def State.ioWrite (s : State) (p v : Word) : State := s.logIo (.write p v)

/-! The program counter. -/

/-- `pc <- PC + n` (R13). -/
def State.advance (s : State) (n : Word) : State := s.setPc (s.pc + n)

/-- The value of an index register (R53 `X[s]`). -/
def State.index (s : State) : Index → Word
  | .ix => s.ix
  | .iy => s.iy
  | .sp => s.sp

/-! The stack (R44). -/

/-- The address the next push writes. -/
def State.pushSlot (s : State) : Word :=
  match s.params.stackModel with
  | .fullDescending => s.sp - 1
  | .emptyDescending => s.sp
  | .fullAscending => s.sp + 1
  | .emptyAscending => s.sp

/-- The address the next pop reads: the top of the stack. -/
def State.popSlot (s : State) : Word :=
  match s.params.stackModel with
  | .fullDescending => s.sp
  | .emptyDescending => s.sp + 1
  | .fullAscending => s.sp
  | .emptyAscending => s.sp - 1

/-- SP after a push. -/
def State.spAfterPush (s : State) : Word :=
  match s.params.stackModel with
  | .fullDescending => s.sp - 1
  | .emptyDescending => s.sp - 1
  | .fullAscending => s.sp + 1
  | .emptyAscending => s.sp + 1

/-- SP after a pop. -/
def State.spAfterPop (s : State) : Word :=
  match s.params.stackModel with
  | .fullDescending => s.sp + 1
  | .emptyDescending => s.sp + 1
  | .fullAscending => s.sp - 1
  | .emptyAscending => s.sp - 1

/-- `Push(v)`. -/
def State.push (s : State) (v : Word) : State :=
  (s.writeWord s.pushSlot v).setSp s.spAfterPush

/-- `Pop()`. -/
def State.pop (s : State) : Word × State :=
  let v := s.readWord s.popSlot
  (v.1, v.2.setSp s.spAfterPop)

/-! Trap entry and return. -/

/-- One push of `TrapEnter` (R203). -/
def State.pushItem (s : State) (ret : Word) : FrameItem → State
  | .pc => s.push ret
  | .fr =>
    let w := s.frPack
    w.2.push w.1
  | .ac => s.push s.ac
  | .ix => s.push s.ix
  | .iy => s.push s.iy

/-- The pushes of `TrapEnter`, first to last (R203). -/
def State.pushFrame (s : State) (ret : Word) : List FrameItem → State
  | [] => s
  | x :: rest => (s.pushItem ret x).pushFrame ret rest

/-- `TrapEnter(ret, target)` (R203), shared by BRK and the interrupt. -/
def State.trapEnter (s : State) (ret target : Word) : State :=
  let t := (s.pushFrame ret s.params.trapFrame).setIe false
  match s.params.trapEntryMode with
  | .direct => t.setPc target
  | .vectored =>
    let v := t.readWord target
    v.2.setPc v.1

/-- Where one popped word of `TrapReturn` goes (R205); the return address is kept beside the state. -/
def State.restoreItem (s : State) (new : Option Word) (v : Word) : FrameItem → State × Option Word
  | .pc => (s, some v)
  | .fr => (s.frUnpack v, new)
  | .ac => (s.setAc v, new)
  | .ix => (s.setIx v, new)
  | .iy => (s.setIy v, new)

/-- The pops of `TrapReturn` (R205), in the order of the list given. -/
def State.popFrame (s : State) (new : Option Word) : List FrameItem → State × Option Word
  | [] => (s, new)
  | x :: rest =>
    let v := s.pop
    let r := v.2.restoreItem new v.1 x
    r.1.popFrame r.2 rest

/-- `TrapReturn()` (R205): the frame is popped last to first. A frame without `PC` gives no return address
and is one the spec refuses (U17). -/
def State.trapReturn (s : State) : Out :=
  match s.popFrame none s.params.trapFrame.reverse with
  | (t, some new) => .next ((t.setIe true).setPc new)
  | (_, none) => .refused .refusedParameters

/-! Parameters, and the fault of an undefined word. -/

/-- The parameter values the spec accepts (U10, U17). -/
def acceptedParams (p : Params) : Bool :=
  decide (p.frCfBit ≠ p.frOvfBit) && decide p.trapFrame.Nodup && p.trapFrame.contains .pc

/-- `raise UndefinedOpcode` for an instruction term whose form the source does not list: its opcode word is
one of the undefined words of R55. -/
def undefinedForm (i : Instr) (s : State) : Out := .fault (.undefinedOpcode i.opcodeWord s)

end Sys2Proof.Machine
end

