-- ==== Sys2Proof/Machine/Accumulator.lean ====
section
/-! DEFINITION. The one-word instructions on the accumulator and the carry flag
(40_zero_address_accumulator.md). Each ends with `pc <- PC + 1` (R98). -/

namespace Sys2Proof.Machine

/-- R100. -/
def execInc (s : State) : Out :=
  let c := decide (s.ac = 0xFFFF)
  let v := decide (s.ac = 0x7FFF)
  .next (((s.setAc (s.ac + 1)).flagsAccUnary c v).advance 1)

/-- R101. -/
def execDec (s : State) : Out :=
  let b := decide (s.ac = 0x0000)
  let v := decide (s.ac = 0x8000)
  .next (((s.setAc (s.ac - 1)).flagsAccUnary (borrowFlag s.params.subCarry b) v).advance 1)

/-- R102. -/
def execCom (s : State) : Out :=
  .next ((s.setAc (~~~s.ac)).flagsLogic.advance 1)

/-- R103. -/
def execNeg (s : State) : Out :=
  let b := decide (s.ac ≠ 0x0000)
  let v := decide (s.ac = 0x8000)
  .next (((s.setAc (0 - s.ac)).flagsAccUnary (borrowFlag s.params.subCarry b) v).advance 1)

/-- R104. -/
def execSet (s : State) : Out := .next ((s.setAc 0xFFFF).advance 1)

/-- R105. -/
def execClr (s : State) : Out := .next ((s.setAc 0x0000).advance 1)

/-- R106. -/
def execShl (s : State) : Out :=
  .next (((s.setCf (s.ac.getLsbD 15)).setAc (s.ac.extractLsb' 0 15 ++ 0#1)).advance 1)

/-- R107. -/
def execLsr (s : State) : Out :=
  .next (((s.setCf (s.ac.getLsbD 0)).setAc (0#1 ++ s.ac.extractLsb' 1 15)).advance 1)

/-- R108. -/
def execAsr (s : State) : Out :=
  .next (((s.setCf (s.ac.getLsbD 0)).setAc
    (BitVec.ofBool (s.ac.getLsbD 15) ++ s.ac.extractLsb' 1 15)).advance 1)

/-- R109: bit 0 receives the carry as it was before the instruction. -/
def execRol (s : State) : Out :=
  .next (((s.setCf (s.ac.getLsbD 15)).setAc (s.ac.extractLsb' 0 15 ++ BitVec.ofBool s.cf)).advance 1)

/-- R110: bit 15 receives the carry as it was before the instruction. -/
def execRor (s : State) : Out :=
  .next (((s.setCf (s.ac.getLsbD 0)).setAc (BitVec.ofBool s.cf ++ s.ac.extractLsb' 1 15)).advance 1)

/-- R111: the value is the environment's (R19); reading the switches is no I/O event. -/
def execLsw (s : State) : Out :=
  let v := s.readSwitches
  .next ((v.2.setAc v.1).advance 1)

/-- R112. -/
def execScf (s : State) : Out := .next ((s.setCf true).advance 1)

/-- R113. -/
def execCcf (s : State) : Out := .next ((s.setCf false).advance 1)

/-- R114: both transfers use the old AC. -/
def execBsw (s : State) : Out := .next ((s.setAc (opByte s.ac ++ modeByte s.ac)).advance 1)

/-- R115. -/
def execBsl (s : State) : Out := .next ((s.setAc (opByte s.ac ++ (0x00 : Byte))).advance 1)

/-- R116. -/
def execBsr (s : State) : Out := .next ((s.setAc ((0x00 : Byte) ++ modeByte s.ac)).advance 1)

end Sys2Proof.Machine
end

