-- ==== Sys2Proof/Machine/Operands.lean ====
section
/-! DEFINITION. Operand resolution, all forms in one place (30_encoding.md R60 to R70), and the shapes of the
two-word instructions over it. -/

namespace Sys2Proof.Machine

/-- What `Resolve` leaves (R69): the effective address (none for the immediate form), and the pointer `p`
latched for the post-increment (none for the other forms). -/
structure Operand where
  ea : Option Word
  pointer : Option Word
deriving DecidableEq, Repr

/-- `Resolve(opw, m)` (R69). The index register is read here, before the instruction writes any register
(R68). -/
def resolve (f : Form) (m : Word) (s : State) : Operand × State :=
  match f with
  | .immediate => (⟨none, none⟩, s)
  | .direct => (⟨some m, none⟩, s)
  | .indexed x => (⟨some (m + s.index x), none⟩, s)
  | .indirect =>
    let p := s.readWord m
    (⟨some p.1, none⟩, p.2)
  | .indirectIndexed x =>
    let p := s.readWord m
    (⟨some (p.1 + s.index x), none⟩, p.2)
  | .postInc =>
    let p := s.readWord m
    (⟨some p.1, some p.1⟩, p.2)
  | .postIncIndexed x =>
    let p := s.readWord m
    (⟨some (p.1 + s.index x), some p.1⟩, p.2)

/-- `Value()` (R69): the operand word itself, or the word at the effective address. -/
def Operand.value (o : Operand) (m : Word) (s : State) : Word × State :=
  match o.ea with
  | none => (m, s)
  | some ea => s.readWord ea

/-- `PostInc()` (R69, R70): writes the latched pointer plus one; the pointer is not read again. -/
def Operand.postInc (o : Operand) (m : Word) (s : State) : State :=
  match o.pointer with
  | none => s
  | some p => s.writeWord m (p + 1)

/-- An instruction of the value class (R69) that goes on to the next instruction: `act` is what it does
with the datum. -/
def withValue (f : Form) (m : Word) (act : Word → State → State) (s : State) : Out :=
  let o := resolve f m s
  let v := o.1.value m o.2
  .next ((o.1.postInc m (act v.1 v.2)).advance 2)

/-- An instruction of the location or port class (R69) that goes on to the next instruction: `act` is its
one access at the effective address. A form outside `forms` makes its opcode word an undefined one (R55). -/
def withLocation (forms : FormSet) (i : Instr) (f : Form) (m : Word) (act : Word → State → State)
    (s : State) : Out :=
  let o := resolve f m s
  match forms.admits f, o.1.ea with
  | true, some ea => .next ((o.1.postInc m (act ea o.2)).advance 2)
  | true, none => undefinedForm i s
  | false, _ => undefinedForm i s

/-- A jump (R179): the operand is resolved and the post-increment committed whether or not the condition
holds; only PC depends on it. -/
def jumpWhen (cond : State → Bool) (f : Form) (m : Word) (s : State) : Out :=
  let o := resolve f m s
  let t := o.1.value m o.2
  let s' := o.1.postInc m t.2
  if cond s then .next (s'.setPc t.1) else .next (s'.advance 2)

end Sys2Proof.Machine
end

