-- ==== Sys2Proof/Machine/ArithLogic.lean ====
section
/-! DEFINITION. Arithmetic and logic on the accumulator (44_memref_arith_logic.md). -/

namespace Sys2Proof.Machine

/-- `AC <- r; CF <- c; OVF <- v` (R160 to R163). -/
def State.setArith (s : State) (r : Word) (c v : Bool) : State := (s.setAc r).setFlags c v

/-- R160: CF is not an input. -/
def execAdd (f : Form) (m : Word) (s : State) : Out :=
  withValue f m (fun v t =>
    let r := addC t.ac v false
    t.setArith r.value r.carry r.overflow) s

/-- R161. -/
def execAdc (f : Form) (m : Word) (s : State) : Out :=
  withValue f m (fun v t =>
    let r := addC t.ac v t.cf
    t.setArith r.value r.carry r.overflow) s

/-- R162: the operand is subtracted from AC; CF is not an input. -/
def execSub (f : Form) (m : Word) (s : State) : Out :=
  withValue f m (fun v t =>
    let r := subB t.ac v false
    t.setArith r.value (borrowFlag t.params.subCarry r.carry) r.overflow) s

/-- R163. -/
def execSbc (f : Form) (m : Word) (s : State) : Out :=
  withValue f m (fun v t =>
    let r := subB t.ac v (borrowFlag t.params.subCarry t.cf)
    t.setArith r.value (borrowFlag t.params.subCarry r.carry) r.overflow) s

/-- R164. -/
def execAnd (f : Form) (m : Word) (s : State) : Out :=
  withValue f m (fun v t => (t.setAc (t.ac &&& v)).flagsLogic) s

/-- R165. -/
def execOra (f : Form) (m : Word) (s : State) : Out :=
  withValue f m (fun v t => (t.setAc (t.ac ||| v)).flagsLogic) s

/-- R166. -/
def execXor (f : Form) (m : Word) (s : State) : Out :=
  withValue f m (fun v t => (t.setAc (t.ac ^^^ v)).flagsLogic) s

end Sys2Proof.Machine
end

