-- ==== Sys2Proof/Machine/Control.lean ====
section
/-! DEFINITION. The one-word control instructions (42_zero_address_control.md). -/

namespace Sys2Proof.Machine

/-- R140. -/
def execEni (s : State) : Out := .next ((s.setIe true).advance 1)

/-- R141. -/
def execDii (s : State) : Out := .next ((s.setIe false).advance 1)

/-- R142. -/
def execRtn (s : State) : Out :=
  let v := s.pop
  .next (v.2.setPc v.1)

/-- R143. -/
def execRti (s : State) : Out := s.trapReturn

/-- R144. -/
def execNop (s : State) : Out := .next (s.advance 1)

/-- `BRK_ADDRESS` (R4, R145), the one address the source fixes. -/
def brkAddress : Word := 0xFFFE

/-- R145: taken whatever IE is; the return address is that of the next instruction. -/
def execBrk (s : State) : Out := .next (s.trapEnter (s.pc + 1) brkAddress)

/-- R146. -/
def execHlt (s : State) : Out := .next ((s.setHalt true).advance 1)

end Sys2Proof.Machine
end

