-- ==== Sys2Proof/Machine/InputOutput.lean ====
section
/-! DEFINITION. Input and output (48_io.md). The effective address is the port number; no memory word at that
address is accessed (R194). -/

namespace Sys2Proof.Machine

/-- R195. -/
def execInp (f : Form) (m : Word) (s : State) : Out :=
  withLocation .f12 (.inp f m) f m (fun port t =>
    let v := t.ioRead port
    v.2.setAc v.1) s

/-- R196. -/
def execOut (f : Form) (m : Word) (s : State) : Out :=
  withLocation .f12 (.out f m) f m (fun port t => t.ioWrite port t.ac) s

end Sys2Proof.Machine
end

