-- ==== Sys2Proof/Machine/JumpCall.lean ====
section
/-! DEFINITION. Jumps, conditional jumps and subroutine call (46_memref_jump_call.md). -/

namespace Sys2Proof.Machine

/-- R180. -/
def execJmp (f : Form) (m : Word) (s : State) : Out := jumpWhen (fun _ => true) f m s

/-- R181: the test is on the accumulator's present value. -/
def execJoz (f : Form) (m : Word) (s : State) : Out := jumpWhen (fun t => t.ac == 0x0000) f m s

/-- R182. -/
def execJnz (f : Form) (m : Word) (s : State) : Out := jumpWhen (fun t => t.ac != 0x0000) f m s

/-- R183: zero counts as plus. -/
def execJpl (f : Form) (m : Word) (s : State) : Out := jumpWhen (fun t => !t.ac.getLsbD 15) f m s

/-- R184. -/
def execJmi (f : Form) (m : Word) (s : State) : Out := jumpWhen (fun t => t.ac.getLsbD 15) f m s

/-- R185. -/
def execJoc (f : Form) (m : Word) (s : State) : Out := jumpWhen (fun t => t.cf) f m s

/-- R186. -/
def execJnc (f : Form) (m : Word) (s : State) : Out := jumpWhen (fun t => !t.cf) f m s

/-- R187. -/
def execJov (f : Form) (m : Word) (s : State) : Out := jumpWhen (fun t => t.ovf) f m s

/-- R188. -/
def execJnv (f : Form) (m : Word) (s : State) : Out := jumpWhen (fun t => !t.ovf) f m s

/-- R189: the target is read before the push, and the post-increment comes last (R40). -/
def execCsr (f : Form) (m : Word) (s : State) : Out :=
  if FormSet.f4.admits f then
    let o := resolve f m s
    let t := o.1.value m o.2
    .next ((o.1.postInc m (t.2.push (s.pc + 2))).setPc t.1)
  else
    undefinedForm (.csr f m) s

end Sys2Proof.Machine
end

