-- ==== Sys2Proof/Machine/LoadStore.lean ====
section
/-! DEFINITION. Loads and stores of AC, SP (43_memref_load_store_ac_sp.md) and of IX, IY
(47_memref_load_store_index.md). -/

namespace Sys2Proof.Machine

/-- R150. -/
def execLda (f : Form) (m : Word) (s : State) : Out := withValue f m (fun v t => t.setAc v) s

/-- R151. -/
def execLds (f : Form) (m : Word) (s : State) : Out := withValue f m (fun v t => t.setSp v) s

/-- R152. -/
def execSta (f : Form) (m : Word) (s : State) : Out :=
  withLocation .f12 (.sta f m) f m (fun ea t => t.writeWord ea t.ac) s

/-- R153. -/
def execSts (f : Form) (m : Word) (s : State) : Out :=
  withLocation .f12 (.sts f m) f m (fun ea t => t.writeWord ea t.sp) s

/-- R190. -/
def execLdx (f : Form) (m : Word) (s : State) : Out := withValue f m (fun v t => t.setIx v) s

/-- R191. -/
def execLdy (f : Form) (m : Word) (s : State) : Out := withValue f m (fun v t => t.setIy v) s

/-- R192. -/
def execStx (f : Form) (m : Word) (s : State) : Out :=
  withLocation .f12 (.stx f m) f m (fun ea t => t.writeWord ea t.ix) s

/-- R193. -/
def execSty (f : Form) (m : Word) (s : State) : Out :=
  withLocation .f12 (.sty f m) f m (fun ea t => t.writeWord ea t.iy) s

end Sys2Proof.Machine
end

