-- ==== Sys2Proof/Machine/Skip.lean ====
section
/-! DEFINITION. Increment or decrement memory and skip (45_memref_skip.md). -/

namespace Sys2Proof.Machine

/-- `Skip()` (R172): passes over the whole next instruction, whose length is read off its opcode word after
every other access; an undefined word there faults with the ISZ or DSZ done. -/
def State.skip (s : State) : Out :=
  let n := s.pc + 2
  match s.fetchWord n with
  | .error e => .fault e
  | .ok (w, t) =>
    match opcodeLength w with
    | some len => .next (t.setPc (n + BitVec.ofNat 16 len))
    | none => .fault (.undefinedOpcode w t)

/-- The common pseudocode of ISZ and DSZ (R170, R171): `count` is the step taken on the memory word. -/
def countAndSkip (i : Instr) (f : Form) (m : Word) (count : Word → Word) (s : State) : Out :=
  let o := resolve f m s
  match FormSet.f11.admits f, o.1.ea with
  | true, some ea =>
    let t := o.2.readWord ea
    let r := count t.1
    let u := o.1.postInc m (t.2.writeWord ea r).flagsStep
    if r = 0x0000 then u.skip else .next (u.advance 2)
  | true, none => undefinedForm i s
  | false, _ => undefinedForm i s

/-- R170. -/
def execIsz (f : Form) (m : Word) (s : State) : Out :=
  countAndSkip (.isz f m) f m (fun t => t + 1) s

/-- R171. -/
def execDsz (f : Form) (m : Word) (s : State) : Out :=
  countAndSkip (.dsz f m) f m (fun t => t - 1) s

end Sys2Proof.Machine
end

