-- ==== Sys2Proof/Machine/StackRegister.lean ====
section
/-! DEFINITION. The one-word stack, index-register and stack-pointer instructions
(41_zero_address_stack_register.md). -/

namespace Sys2Proof.Machine

/-- R120. -/
def execPsa (s : State) : Out := .next ((s.push s.ac).advance 1)

/-- R121. -/
def execPoa (s : State) : Out :=
  let v := s.pop
  .next ((v.2.setAc v.1).advance 1)

/-- R122. -/
def execPsf (s : State) : Out :=
  let w := s.frPack
  .next ((w.2.push w.1).advance 1)

/-- R123. -/
def execPof (s : State) : Out :=
  let w := s.pop
  .next ((w.2.frUnpack w.1).advance 1)

/-- R124. -/
def execInx (s : State) : Out := .next ((s.setIx (s.ix + 1)).flagsStep.advance 1)

/-- R125. -/
def execIny (s : State) : Out := .next ((s.setIy (s.iy + 1)).flagsStep.advance 1)

/-- R126. -/
def execIns (s : State) : Out := .next ((s.setSp (s.sp + 1)).flagsStep.advance 1)

/-- R127. -/
def execDex (s : State) : Out := .next ((s.setIx (s.ix - 1)).flagsStep.advance 1)

/-- R128. -/
def execDey (s : State) : Out := .next ((s.setIy (s.iy - 1)).flagsStep.advance 1)

/-- R129. -/
def execDes (s : State) : Out := .next ((s.setSp (s.sp - 1)).flagsStep.advance 1)

/-- R130. -/
def execMax (s : State) : Out := .next ((s.setIx s.ac).advance 1)

/-- R131. -/
def execMay (s : State) : Out := .next ((s.setIy s.ac).advance 1)

/-- R132. -/
def execMas (s : State) : Out := .next ((s.setSp s.ac).advance 1)

/-- R133. -/
def execMxa (s : State) : Out := .next ((s.setAc s.ix).advance 1)

/-- R134. -/
def execMya (s : State) : Out := .next ((s.setAc s.iy).advance 1)

/-- R135. -/
def execMsa (s : State) : Out := .next ((s.setAc s.sp).advance 1)

/-- R136. -/
def execPsx (s : State) : Out := .next ((s.push s.ix).advance 1)

/-- R137. -/
def execPox (s : State) : Out :=
  let v := s.pop
  .next ((v.2.setIx v.1).advance 1)

/-- R138. -/
def execPsy (s : State) : Out := .next ((s.push s.iy).advance 1)

/-- R139. -/
def execPoy (s : State) : Out :=
  let v := s.pop
  .next ((v.2.setIy v.1).advance 1)

end Sys2Proof.Machine
end

