-- ==== Sys2Proof/Machine/Dispatch.lean ====
section
/-! DEFINITION. Which meaning each instruction has, in the order of spec/opcode_table.json. -/

namespace Sys2Proof.Machine

def exec (i : Instr) (s : State) : Host.Outcome State Fault Refusal :=
  match i with
  | .inc => Sys2Proof.Machine.execInc s
  | .dec => Sys2Proof.Machine.execDec s
  | .com => Sys2Proof.Machine.execCom s
  | .neg => Sys2Proof.Machine.execNeg s
  | .set => Sys2Proof.Machine.execSet s
  | .clr => Sys2Proof.Machine.execClr s
  | .shl => Sys2Proof.Machine.execShl s
  | .lsr => Sys2Proof.Machine.execLsr s
  | .asr => Sys2Proof.Machine.execAsr s
  | .rol => Sys2Proof.Machine.execRol s
  | .ror => Sys2Proof.Machine.execRor s
  | .lsw => Sys2Proof.Machine.execLsw s
  | .scf => Sys2Proof.Machine.execScf s
  | .ccf => Sys2Proof.Machine.execCcf s
  | .psa => Sys2Proof.Machine.execPsa s
  | .poa => Sys2Proof.Machine.execPoa s
  | .psf => Sys2Proof.Machine.execPsf s
  | .pof => Sys2Proof.Machine.execPof s
  | .eni => Sys2Proof.Machine.execEni s
  | .dii => Sys2Proof.Machine.execDii s
  | .rtn => Sys2Proof.Machine.execRtn s
  | .rti => Sys2Proof.Machine.execRti s
  | .nop => Sys2Proof.Machine.execNop s
  | .inx => Sys2Proof.Machine.execInx s
  | .iny => Sys2Proof.Machine.execIny s
  | .ins => Sys2Proof.Machine.execIns s
  | .dex => Sys2Proof.Machine.execDex s
  | .dey => Sys2Proof.Machine.execDey s
  | .des => Sys2Proof.Machine.execDes s
  | .max => Sys2Proof.Machine.execMax s
  | .may => Sys2Proof.Machine.execMay s
  | .mas => Sys2Proof.Machine.execMas s
  | .mxa => Sys2Proof.Machine.execMxa s
  | .mya => Sys2Proof.Machine.execMya s
  | .msa => Sys2Proof.Machine.execMsa s
  | .psx => Sys2Proof.Machine.execPsx s
  | .pox => Sys2Proof.Machine.execPox s
  | .psy => Sys2Proof.Machine.execPsy s
  | .poy => Sys2Proof.Machine.execPoy s
  | .bsw => Sys2Proof.Machine.execBsw s
  | .bsl => Sys2Proof.Machine.execBsl s
  | .bsr => Sys2Proof.Machine.execBsr s
  | .brk => Sys2Proof.Machine.execBrk s
  | .hlt => Sys2Proof.Machine.execHlt s
  | .lda f m => Sys2Proof.Machine.execLda f m s
  | .lds f m => Sys2Proof.Machine.execLds f m s
  | .sta f m => Sys2Proof.Machine.execSta f m s
  | .sts f m => Sys2Proof.Machine.execSts f m s
  | .add f m => Sys2Proof.Machine.execAdd f m s
  | .adc f m => Sys2Proof.Machine.execAdc f m s
  | .sub f m => Sys2Proof.Machine.execSub f m s
  | .sbc f m => Sys2Proof.Machine.execSbc f m s
  | .and f m => Sys2Proof.Machine.execAnd f m s
  | .ora f m => Sys2Proof.Machine.execOra f m s
  | .xor f m => Sys2Proof.Machine.execXor f m s
  | .isz f m => Sys2Proof.Machine.execIsz f m s
  | .dsz f m => Sys2Proof.Machine.execDsz f m s
  | .jmp f m => Sys2Proof.Machine.execJmp f m s
  | .joz f m => Sys2Proof.Machine.execJoz f m s
  | .jnz f m => Sys2Proof.Machine.execJnz f m s
  | .jpl f m => Sys2Proof.Machine.execJpl f m s
  | .jmi f m => Sys2Proof.Machine.execJmi f m s
  | .joc f m => Sys2Proof.Machine.execJoc f m s
  | .jnc f m => Sys2Proof.Machine.execJnc f m s
  | .jov f m => Sys2Proof.Machine.execJov f m s
  | .jnv f m => Sys2Proof.Machine.execJnv f m s
  | .csr f m => Sys2Proof.Machine.execCsr f m s
  | .inp f m => Sys2Proof.Machine.execInp f m s
  | .out f m => Sys2Proof.Machine.execOut f m s
  | .ldx f m => Sys2Proof.Machine.execLdx f m s
  | .ldy f m => Sys2Proof.Machine.execLdy f m s
  | .stx f m => Sys2Proof.Machine.execStx f m s
  | .sty f m => Sys2Proof.Machine.execSty f m s

end Sys2Proof.Machine
end

