-- ==== Sys2Proof/Machine/Fetch.lean ====
section
/-! DEFINITION. What the step of 30_encoding.md R58 does before an instruction runs: the halt, the interrupt,
the fetch. -/

namespace Sys2Proof.Machine

/-- The fetch of R58: the opcode word, then (R57, R40) the operand word of a two-word instruction. -/
def State.fetchInstr (s : State) : Except Fault (Instr × State) :=
  match s.fetchWord s.pc with
  | .error e => .error e
  | .ok (w, t) =>
    match opcodeMeaning w with
    | none => .error (.undefinedOpcode w t)
    | some (.implied i) => .ok (i, t)
    | some (.operand make) =>
      match t.fetchWord (s.pc + 1) with
      | .error e => .error e
      | .ok (m, u) => .ok (make m, u)

/-- What stands at an instruction boundary: an outcome that needs no instruction, or an instruction to run
and the state it runs in. -/
inductive Boundary where
  | answer (o : Out)
  | run (i : Instr) (s : State)

/-- R58, with the parameters the spec refuses refused first (U10, U17). A request is taken when IE = 1 and
irq = 1, before anything is fetched (R208, R210). -/
def boundary (s : State) : Boundary :=
  if acceptedParams s.params = false then
    .answer (.refused .refusedParameters)
  else if s.halt then
    .answer (.fault .halted)
  else
    let q := s.sampleIrq
    if s.ie && q.1 then
      .answer (.next (q.2.trapEnter s.pc s.params.irqAddress))
    else
      match q.2.fetchInstr with
      | .error e => .answer (.fault e)
      | .ok (i, t) => .run i t

/-- Memory in which the environment has loaded the word `v` at `a` (R24), whatever the memory map says of
stores. -/
def State.loadWord (s : State) (a v : Word) : State := s.setMem (s.mem.putWord a v)

/-- `s` with the bits `w` of an instruction loaded at PC and the word after it (opcode word first, bits from
`nbits` on 0), the processor running and no interrupt requested at this boundary. -/
def placeInstr (s : State) (nbits w : Nat) : State :=
  let bits := w % 2 ^ nbits
  let t := (s.loadWord s.pc (BitVec.ofNat 16 bits)).loadWord (s.pc + 1) (BitVec.ofNat 16 (bits / 2 ^ 16))
  (t.setHalt false).setIrqScript (false :: s.irqScript)

end Sys2Proof.Machine
end

