-- ==== Sys2Proof/Machine/Step.lean ====
section
/-! DEFINITION. One step of the machine (30_encoding.md R58). -/

namespace Sys2Proof.Machine

/-- R58. -/
def step (s : State) : Host.Outcome State Fault Refusal :=
  match boundary s with
  | .answer o => o
  | .run i t => exec i t

/-- `s` with the bits `w` of an instruction where the next step fetches. -/
def State.withFetchWord (s : State) (nbits w : Nat) : State := placeInstr s nbits w

end Sys2Proof.Machine
end

