-- ==== Sys2Proof/Machine/Assembly.lean ====
section
/-! DEFINITION. The assembler's operand shapes (30_encoding.md R71, R72): the only part of the assembler the
source gives. `m` stands for the value of an expression. -/

namespace Sys2Proof.Machine

/-- One side of a sum in an indexed operand: the base expression or an index register. -/
inductive Addend where
  | base (m : Word)
  | register (x : Index)
deriving DecidableEq, Repr

/-- An operand as it is written: round brackets are "the word at", square brackets "the word at the word
at" (R71). In `squareIncSum` the base is written `(m++)`. -/
inductive WrittenOperand where
  | bare (m : Word)
  | round (m : Word)
  | square (m : Word)
  | squareInc (m : Word)
  | roundSum (left right : Addend)
  | squareSum (left right : Addend)
  | squareIncSum (left right : Addend)
deriving DecidableEq, Repr

/-- R72: an indexed operand's two parts may stand in any order; it has exactly one of each. -/
def indexedParts : Addend → Addend → Option (Word × Index)
  | .base m, .register x => some (m, x)
  | .register x, .base m => some (m, x)
  | .base _, .base _ => none
  | .register _, .register _ => none

/-- The form and the operand word a written operand assembles to (R71, R72). -/
def assembleOperand : WrittenOperand → Option (Form × Word)
  | .bare m => some (.immediate, m)
  | .round m => some (.direct, m)
  | .square m => some (.indirect, m)
  | .squareInc m => some (.postInc, m)
  | .roundSum a b => (indexedParts a b).map fun p => (.indexed p.2, p.1)
  | .squareSum a b => (indexedParts a b).map fun p => (.indirectIndexed p.2, p.1)
  | .squareIncSum a b => (indexedParts a b).map fun p => (.postIncIndexed p.2, p.1)

/-- The shape the source lists for a form (R71). -/
def writeOperand : Form → Word → WrittenOperand
  | .immediate, m => .bare m
  | .direct, m => .round m
  | .indirect, m => .square m
  | .postInc, m => .squareInc m
  | .indexed x, m => .roundSum (.base m) (.register x)
  | .indirectIndexed x, m => .squareSum (.base m) (.register x)
  | .postIncIndexed x, m => .squareIncSum (.base m) (.register x)

/-- The same operand with the two parts of its sum the other way round (R72). -/
def WrittenOperand.swapped : WrittenOperand → WrittenOperand
  | .roundSum a b => .roundSum b a
  | .squareSum a b => .squareSum b a
  | .squareIncSum a b => .squareIncSum b a
  | .bare m => .bare m
  | .round m => .round m
  | .square m => .square m
  | .squareInc m => .squareInc m

end Sys2Proof.Machine
end

