-- ==== Sys2Proof/Machine/Timing.lean ====
section
/-! DEFINITION. Cycle counts (70_reset_and_hazards.md R240 to R243). They are data about the machine, not
part of its state: no instruction can read elapsed time (R216), so `step` does not use them. -/

namespace Sys2Proof.Machine

/-- `N (E)` (R240): `cycles` machine cycles in all, `extended` of them extended cycles. -/
structure Cost where
  cycles : Nat
  extended : Nat
deriving DecidableEq, Repr

/-- A standard machine cycle, in nanoseconds (R4 `CYCLE_NS`, R240). -/
def cycleNs : Nat := 250

/-- An extended cycle, in nanoseconds (R4 `EXT_CYCLE_NS`, R240). -/
def extendedCycleNs : Nat := 500

/-- `time(N, E)` in nanoseconds (R240). -/
def Cost.timeNs (c : Cost) : Nat := (c.cycles - c.extended) * cycleNs + c.extended * extendedCycleNs

/-- The two costs together. -/
def Cost.plus (a b : Cost) : Cost := ⟨a.cycles + b.cycles, a.extended + b.extended⟩

/-- R242, the columns of the two-word table: the cost of the direct form; what the other forms add to it is
the same in every column. -/
def formCost (direct : Cost) : Form → Cost
  | .immediate => direct
  | .direct => direct
  | .indexed _ => direct
  | .indirect => direct.plus ⟨1, 1⟩
  | .indirectIndexed _ => direct.plus ⟨1, 1⟩
  | .postInc => direct.plus ⟨4, 2⟩
  | .postIncIndexed _ => direct.plus ⟨4, 2⟩

/-- LDA LDS LDX LDY (R242). -/
def loadCost : Form → Cost
  | .immediate => ⟨8, 2⟩
  | f => formCost ⟨8, 3⟩ f

/-- ADD ADC SUB SBC AND ORA XOR JMP (R242). -/
def arithCost : Form → Cost
  | .immediate => ⟨7, 2⟩
  | f => formCost ⟨8, 3⟩ f

/-- JOZ JNZ JPL JMI JOC JNC JOV JNV (R242). -/
def branchCost : Form → Cost
  | .immediate => ⟨9, 2⟩
  | f => formCost ⟨10, 3⟩ f

/-- CSR (R242). -/
def callCost : Form → Cost
  | .immediate => ⟨9, 3⟩
  | f => formCost ⟨10, 4⟩ f

/-- ISZ DSZ (R242): the post-increment forms are printed 13 (5) (90_conflicts.md C5). -/
def countCost : Form → Cost
  | .postIncIndexed _ => ⟨13, 5⟩
  | f => formCost ⟨9, 4⟩ f

/-- The printed count of an instruction (R242), without the price of an instruction it skips. A form the
source does not list has none. -/
def instrCost (i : Instr) : Option Cost :=
  if i.wf then
    some <| match i with
      | .eni | .dii | .hlt => ⟨5, 1⟩
      | .com | .neg | .set | .clr | .shl | .lsr | .asr | .rol | .ror | .lsw | .scf | .ccf | .nop
      | .inx | .iny | .ins | .dex | .dey | .des | .max | .may | .mas | .mxa | .mya | .msa => ⟨6, 1⟩
      | .poa | .pof | .pox | .poy | .rtn => ⟨6, 2⟩
      | .inc | .dec | .psa | .psf | .psx | .psy => ⟨7, 2⟩
      | .rti => ⟨10, 4⟩
      | .bsl | .bsr => ⟨12, 1⟩
      | .brk => ⟨13, 4⟩
      | .bsw => ⟨20, 1⟩
      | .lda f _ | .lds f _ | .ldx f _ | .ldy f _ => loadCost f
      | .sta f _ | .sts f _ | .stx f _ | .sty f _ | .inp f _ | .out f _ => formCost ⟨7, 3⟩ f
      | .add f _ | .adc f _ | .sub f _ | .sbc f _ | .and f _ | .ora f _ | .xor f _ | .jmp f _ => arithCost f
      | .joz f _ | .jnz f _ | .jpl f _ | .jmi f _ | .joc f _ | .jnc f _ | .jov f _ | .jnv f _ => branchCost f
      | .csr f _ => callCost f
      | .isz f _ | .dsz f _ => countCost f
  else
    none

/-- "Any Skipped Instruction after ISZ or DSZ: 4 (1)" (R242). -/
def skippedCost : Cost := ⟨4, 1⟩

/-- The instruction passed over the one after it: ISZ or DSZ left PC beyond the next opcode word (R172). -/
def skipTaken (i : Instr) (s : State) : Bool :=
  match i, exec i s with
  | .isz _ _, .next t => t.pc != s.pc + 2
  | .dsz _ _, .next t => t.pc != s.pc + 2
  | _, _ => false

/-- The cost of the step at a boundary. None for a step that runs no instruction: the source gives no count
for interrupt entry (R243). -/
def stepCost (s : State) : Option Cost :=
  match boundary s with
  | .answer _ => none
  | .run i t => (instrCost i).map fun c => if skipTaken i t then c.plus skippedCost else c

/-- How many words an indirect form reads and writes beside its operand (R40 steps 3 and 6). -/
def pointerAccesses : Form → Nat
  | .immediate | .direct | .indexed _ => 0
  | .indirect | .indirectIndexed _ => 1
  | .postInc | .postIncIndexed _ => 2

/-- The operand access of a form that consumes a value: none for the immediate form (R61). -/
def valueAccesses : Form → Nat
  | .immediate => 0
  | _ => 1

/-- How many one-word accesses the spec's rules give an instruction (R33, R40, R241), under the default
trap frame, without the opcode word read by a skip. -/
def instrAccesses : Instr → Nat
  | .inc | .dec | .com | .neg | .set | .clr | .shl | .lsr | .asr | .rol | .ror | .lsw | .scf | .ccf
  | .eni | .dii | .nop | .inx | .iny | .ins | .dex | .dey | .des | .max | .may | .mas | .mxa | .mya | .msa
  | .bsw | .bsl | .bsr | .hlt => 1
  | .psa | .poa | .psf | .pof | .psx | .pox | .psy | .poy | .rtn => 2
  | .brk | .rti => 3
  | .lda f _ | .lds f _ | .ldx f _ | .ldy f _ | .add f _ | .adc f _ | .sub f _ | .sbc f _
  | .and f _ | .ora f _ | .xor f _ | .jmp f _ | .joz f _ | .jnz f _ | .jpl f _ | .jmi f _ | .joc f _
  | .jnc f _ | .jov f _ | .jnv f _ => 2 + pointerAccesses f + valueAccesses f
  | .csr f _ => 3 + pointerAccesses f + valueAccesses f
  | .sta f _ | .sts f _ | .stx f _ | .sty f _ | .inp f _ | .out f _ => 3 + pointerAccesses f
  | .isz f _ | .dsz f _ => 4 + pointerAccesses f

end Sys2Proof.Machine
end

