-- ==== Sys2Proof/Safety.lean ====
section
/-! DEFINITION. What a good state and a good run are, in the words statements use. -/

namespace Sys2Proof.Machine

/-- No word is half written: of a word's two cells both are listed or neither is (R33: every access moves
one whole word). -/
def Memory.whole (m : Memory) : Prop :=
  ∀ a : Word, (m.lookup (lowKey a)).isSome = (m.lookup (highKey a)).isSome

/-- The invariant of every run: memory is in canonical form and written in whole words, and the parameters
are ones the spec accepts. -/
def Inv (s : State) : Prop :=
  s.mem.wf = true ∧ s.mem.whole ∧ acceptedParams s.params = true

/-- The end of a run (R146): nothing but the environment's reset leaves it. -/
def Final (s : State) : Prop := s.halt = true

/-- The next step neither faults nor is refused. -/
def Runs (s : State) : Prop := ∃ t, step s = .next t

/-- `t` is reached from `s` in some number of steps. -/
inductive Reaches : State → State → Prop where
  | here (s : State) : Reaches s s
  | step {s t u : State} : Reaches s t → Machine.step t = .next u → Reaches s u

/-- A run that never stops except by halting: every state it reaches is final or has a next step. -/
def Safe (s : State) : Prop := ∀ t, Reaches s t → Final t ∨ Runs t

end Sys2Proof.Machine
end

