-- ==== Sys2Proof/Certificates/Slice0/Obligations.lean ====
section
/-! DEFINITION. The statements for the provers, from the numbered rules of spec/. -/

namespace Sys2Proof.Claims

open Sys2Proof.Machine

/-! What the statements are written with. -/

/-- The 13 forms in the order of the source's rows (R52). -/
def allForms : List Form :=
  [.immediate, .direct, .indirect, .postInc, .indexed .ix, .indexed .iy, .indexed .sp,
   .indirectIndexed .ix, .indirectIndexed .iy, .indirectIndexed .sp,
   .postIncIndexed .ix, .postIncIndexed .iy, .postIncIndexed .sp]

/-- A one-word instruction is spelled by the opcode word `w` (and `w` reads as it) and costs `n (e)`. -/
def SpelledOne (i : Instr) (w : Word) (n e : Nat) : Prop :=
  encode i = [w] ∧ decode [w] = .ok (i, []) ∧ instrCost i = some ⟨n, e⟩

/-- A two-word instruction has the forms of the set and no other; in the order of `allForms` their opcode
words are `ws`, each followed by the operand word and reading as the instruction, and their costs `cs`. -/
def SpelledTwo (forms : FormSet) (mk : Form → Word → Instr) (ws : List Word) (cs : List Cost) : Prop :=
  ∀ m : Word,
    (allForms.filter forms.admits).map (fun f => encode (mk f m)) = ws.map (fun w => [w, m]) ∧
    ws.map (fun w => decode [w, m]) = (allForms.filter forms.admits).map (fun f => .ok (mk f m, [])) ∧
    (allForms.filter forms.admits).map (fun f => instrCost (mk f m)) = cs.map some ∧
    ∀ f, forms.admits f = false → opcodeLength (mk f m).opcodeWord = none

/-- Memory `after` is `before` with the word `v` stored at `a`: where the memory map gives `ram` both bytes
of the word are those of `v`, and every other byte is as before; where it does not, every byte is as before
(R36). -/
def WordStored (p : Params) (before after : Memory) (a v : Word) : Prop :=
  (kindAt p a = .ram →
    after.lookup (lowKey a) = some (v.extractLsb' 0 8) ∧
    after.lookup (highKey a) = some (v.extractLsb' 8 8)) ∧
  ∀ k, (kindAt p a = .ram → k ≠ lowKey a ∧ k ≠ highKey a) → after.lookup k = before.lookup k

/-- The post-increment of form `f` with operand word `m`, begun in `s`: the pointer read in `Resolve` plus
one is stored at `m` for a post-increment form, and memory is left alone for another (R69, R70). -/
def PostIncDone (s : State) (f : Form) (m : Word) (before after : Memory) : Prop :=
  match (resolve f m s).1.pointer with
  | some p => WordStored s.params before after m (p + 1)
  | none => after = before

/-- `TRAP_FRAME`: `w` is a word that entry with return address `ret` in `s` saves for the item: the flag word
has CF and OVF at their bits, and its other bits are not stated (R16, R203). -/
def ItemSaved (s : State) (ret : Word) (x : FrameItem) (w : Word) : Prop :=
  match x with
  | .pc => w = ret
  | .fr => s.params.frCfBit ≠ s.params.frOvfBit →
    w.getLsbD s.params.frCfBit.val = s.cf ∧ w.getLsbD s.params.frOvfBit.val = s.ovf
  | .ac => w = s.ac
  | .ix => w = s.ix
  | .iy => w = s.iy

/-- The addresses at which the items of a frame are pushed, the first with SP at `sp` (R44, R203). -/
def frameSlots (s : State) : List FrameItem → Word → List Word
  | [], _ => []
  | _ :: rest, sp => (s.setSp sp).pushSlot :: frameSlots s rest (s.setSp sp).spAfterPush

/-- From SP at `sp` and memory `before` to SP at `spEnd` and memory `after` by storing the items of a frame in
order, each at its slot and nothing else (R203). -/
def FrameStored (s : State) (ret : Word) : List FrameItem → Word → Memory → Word → Memory → Prop
  | [], sp, before, spEnd, after => spEnd = sp ∧ after = before
  | x :: rest, sp, before, spEnd, after => ∃ w mid, ItemSaved s ret x w ∧
    WordStored s.params before mid (s.setSp sp).pushSlot w ∧
    FrameStored s ret rest (s.setSp sp).spAfterPush mid spEnd after

/-- An instruction word that a fetch can read: listed, and not at an absent address. -/
def Readable (s : State) (a : Word) : Prop :=
  kindAt s.params a ≠ .absent ∧ s.mem.loaded a = true

/-- The processor is about to fetch: accepted parameters, running, and no interrupt taken (R58). -/
def Fetches (s : State) : Prop :=
  acceptedParams s.params = true ∧ s.halt = false ∧ (s.ie = false ∨ s.sampleIrq.1 = false)

/-- The processor is about to take the interrupt (R208). -/
def TakesInterrupt (s : State) : Prop :=
  acceptedParams s.params = true ∧ s.halt = false ∧ s.ie = true ∧ s.sampleIrq.1 = true

/-- `FLAGS_ACC_UNARY`: what the flags `c v` after the instruction are when the operation's carry and
overflow are `c' v'`; nothing is said under `any`. -/
def AccUnaryFlagsAre (s : State) (c' v' c v : Bool) : Prop :=
  (s.params.flagsAccUnary = .unchanged → c = s.cf ∧ v = s.ovf) ∧
  (s.params.flagsAccUnary = .arithmetic → c = c' ∧ v = v')

/-- `SUB_CARRY`: the flag that stands for a borrow. -/
def borrowAsFlag (s : State) (b : Bool) : Bool :=
  match s.params.subCarry with
  | .borrow => b
  | .notBorrow => !b

/-- The signed value is outside 16 bits. -/
def outsideSigned (t : Int) : Bool := decide (t < -32768 ∨ 32767 < t)

/-- The four registers a load fills and a store writes out. -/
inductive Reg where
  | ac
  | sp
  | ix
  | iy

/-- The value of such a register. -/
def Reg.read (r : Reg) (s : State) : Word :=
  match r with
  | .ac => s.ac
  | .sp => s.sp
  | .ix => s.ix
  | .iy => s.iy

/-- The state with such a register replaced. -/
def Reg.write (r : Reg) (v : Word) (s : State) : State :=
  match r with
  | .ac => { s with ac := v }
  | .sp => { s with sp := v }
  | .ix => { s with ix := v }
  | .iy => { s with iy := v }

/-- STA, STS, STX, STY. -/
def Reg.storeInstr : Reg → Form → Word → Instr
  | .ac => .sta
  | .sp => .sts
  | .ix => .stx
  | .iy => .sty

/-! Who writes what: the writers that R10 to R18 and R25 list. -/

/-- R10: the instructions that write AC. -/
def writesAc (p : Params) : Instr → Bool
  | .inc | .dec | .com | .neg | .set | .clr | .shl | .lsr | .asr | .rol | .ror | .lsw | .poa
  | .mxa | .mya | .msa | .bsw | .bsl | .bsr
  | .lda _ _ | .add _ _ | .adc _ _ | .sub _ _ | .sbc _ _ | .and _ _ | .ora _ _ | .xor _ _ | .inp _ _ => true
  | .rti => p.trapFrame.contains .ac
  | _ => false

/-- R11: the instructions that write IX. -/
def writesIx (p : Params) : Instr → Bool
  | .ldx _ _ | .max | .pox | .inx | .dex => true
  | .rti => p.trapFrame.contains .ix
  | _ => false

/-- R11: the instructions that write IY. -/
def writesIy (p : Params) : Instr → Bool
  | .ldy _ _ | .may | .poy | .iny | .dey => true
  | .rti => p.trapFrame.contains .iy
  | _ => false

/-- R12: the instructions that write SP. -/
def writesSp : Instr → Bool
  | .lds _ _ | .mas | .ins | .des | .psa | .poa | .psf | .pof | .psx | .pox | .psy | .poy
  | .csr _ _ | .rtn | .rti | .brk => true
  | _ => false

/-- R25: the instructions that write OVF. -/
def writesOvf (p : Params) : Instr → Bool
  | .add _ _ | .adc _ _ | .sub _ _ | .sbc _ _ | .pof => true
  | .rti => p.trapFrame.contains .fr
  | .inc | .dec | .neg => p.flagsAccUnary != .unchanged
  | .com | .and _ _ | .ora _ _ | .xor _ _ => p.flagsLogic != .unchanged
  | .inx | .iny | .ins | .dex | .dey | .des | .isz _ _ | .dsz _ _ => p.flagsStep != .unchanged
  | _ => false

/-- R25: the instructions that write CF: those that write OVF, the shifts and rotates, SCF and CCF. -/
def writesCf (p : Params) : Instr → Bool
  | .shl | .lsr | .asr | .rol | .ror | .scf | .ccf => true
  | i => writesOvf p i

/-- R21, R25: the instructions that write memory: stores, pushes, ISZ and DSZ, and any post-increment
form. -/
def writesMem (i : Instr) : Bool :=
  match i with
  | .psa | .psf | .psx | .psy | .brk => true
  | .sta _ _ | .sts _ _ | .stx _ _ | .sty _ _ | .isz _ _ | .dsz _ _ | .csr _ _ => true
  | _ =>
    match i.operand with
    | some (.postInc, _) => true
    | some (.postIncIndexed _, _) => true
    | _ => false

/-- R241: INC and DEC, BRK and RTI, and the post-increment forms of ISZ and DSZ, whose Extended count is
not the number of accesses. -/
def countUnexplained : Instr → Bool
  | .inc | .dec | .brk | .rti => true
  | .isz (.postIncIndexed _) _ | .dsz (.postIncIndexed _) _ => true
  | _ => false

end Sys2Proof.Claims

open Sys2Proof Sys2Proof.Machine Sys2Proof.Claims

/-! Encoding (30_encoding.md). -/

/-- R52: the 14 `mode` bytes: 0x00 is that of the one-word instructions, and the 13 others name the 13 forms,
in the source's order; no other byte is the mode of a defined word. -/
def Obligations.ModeBytesNameTheForms : Prop :=
  (∀ i : Instr, i.operand = none → modeByte i.opcodeWord = 0x00) ∧
  allForms.map Form.mode =
      [0x03, 0x01, 0x05, 0x0D, 0x11, 0x21, 0x31, 0x15, 0x25, 0x35, 0x1D, 0x2D, 0x3D] ∧
  (∀ f, f ∈ allForms) ∧
  (∀ (b : Byte) (f : Form), formOfMode b = some f ↔ b = f.mode) ∧
  ∀ w : Word, (opcodeLength w).isSome = true → modeByte w ≠ 0x00 → ∃ f : Form, modeByte w = f.mode

/-- A few words of each family read as the instructions the source prints beside them
(95_test_vectors.md S7). -/
def Obligations.PrintedWordsDecode : Prop :=
  ∀ m : Word,
    decode [0x001A] = .ok (.inc, []) ∧
    decode [0x0028] = .ok (.psa, []) ∧
    decode [0x0048] = .ok (.brk, []) ∧
    decode [0x00FF] = .ok (.hlt, []) ∧
    decode [0x2501, m] = .ok (.lda (.indirectIndexed .iy) m, []) ∧
    decode [0x0103, m] = .ok (.sta .direct m, []) ∧
    decode [0x1105, m] = .ok (.add (.indexed .ix) m, []) ∧
    decode [0x1D0C, m] = .ok (.isz (.postIncIndexed .ix) m, []) ∧
    decode [0x030E, m] = .ok (.jmp .immediate m, []) ∧
    decode [0x0D17, m] = .ok (.csr .postInc m, []) ∧
    decode [0x3D34, m] = .ok (.sty (.postIncIndexed .sp) m, []) ∧
    decode [0x1D19, m] = .ok (.out (.postIncIndexed .ix) m, [])

/-- Decode and encode agree, for every well-formed instruction with every operand: no bit of an encoding is
dropped. Rests on the spec's own decision D16. -/
def Obligations.DecodeInvertsEncode : Prop :=
  ∀ (i : Instr) (rest : List Word), i.wf = true → decode (encode i ++ rest) = .ok (i, rest)

/-- Whatever decodes is well formed, and the words read are exactly its encoding: no word has a second
reading. Rests on the spec's own decision D16. -/
def Obligations.EncodeInvertsDecode : Prop :=
  ∀ (ws : List Word) (i : Instr) (rest : List Word),
    decode ws = .ok (i, rest) → i.wf = true ∧ ws = encode i ++ rest

/-- R57: the length of every defined word is one more than its bit 8, and a word has a length exactly when
it is the opcode word of a well-formed instruction. Rests on the spec's own decision D16. -/
def Obligations.LengthIsOnePlusBitEight : Prop :=
  (∀ (w : Word) (n : Nat), opcodeLength w = some n → n = 1 + (w.getLsbD 8).toNat) ∧
  ∀ w : Word, (opcodeLength w).isSome = true ↔ ∃ i : Instr, i.wf = true ∧ i.opcodeWord = w

/-- R55, R56: exactly 402 words are defined, and no other word decodes, whatever follows it. Rests on the
spec's own decisions D15, D16. -/
def Obligations.FourHundredTwoWordsAreDefined : Prop :=
  (∃ l : List Word, l.Nodup ∧ l.length = 402 ∧ ∀ w, w ∈ l ↔ (opcodeLength w).isSome = true) ∧
  ∀ (w : Word) (rest : List Word),
    opcodeLength w = none → decode (w :: rest) = .error (.undefinedOpcode w)

/-- R72, with the shapes of R71: every form's written operand assembles to it, and an indexed operand may be
written with its two parts in any order; `ADD (BASE+IX)` and `ADD (IX+BASE)` are the words 0x1105, BASE. -/
def Obligations.IndexedOperandPartsInAnyOrder : Prop :=
  (∀ (f : Form) (m : Word),
    assembleOperand (writeOperand f m) = some (f, m) ∧
    assembleOperand (writeOperand f m).swapped = some (f, m)) ∧
  ∀ base : Word,
    (assembleOperand (.roundSum (.base base) (.register .ix))).map (fun p => encode (.add p.1 p.2)) =
      some [0x1105, base] ∧
    (assembleOperand (.roundSum (.register .ix) (.base base))).map (fun p => encode (.add p.1 p.2)) =
      some [0x1105, base]

/-! Operand resolution (30_encoding.md R60 to R70) and memory (20_memory.md). -/

/-- R61 to R67: for each form, the effective address, the pointer and the reads; the datum, which is the
operand word where there is no address and the word at the address where there is one; and the deferred
update, which writes the pointer plus one at `m` in the post-increment forms only. The index register is
added after the indirection. -/
def Obligations.ResolvePerForm : Prop :=
  ∀ (m : Word) (s : State),
    resolve .immediate m s = (⟨none, none⟩, s) ∧
    resolve .direct m s = (⟨some m, none⟩, s) ∧
    (∀ x, resolve (.indexed x) m s = (⟨some (m + s.index x), none⟩, s)) ∧
    (∀ p t, s.readWord m = (p, t) →
      resolve .indirect m s = (⟨some p, none⟩, t) ∧
      (∀ x, resolve (.indirectIndexed x) m s = (⟨some (p + s.index x), none⟩, t)) ∧
      resolve .postInc m s = (⟨some p, some p⟩, t) ∧
      ∀ x, resolve (.postIncIndexed x) m s = (⟨some (p + s.index x), some p⟩, t)) ∧
    (∀ p, Operand.value ⟨none, p⟩ m s = (m, s)) ∧
    (∀ ea p, Operand.value ⟨some ea, p⟩ m s = s.readWord ea) ∧
    (∀ ea, Operand.postInc ⟨ea, none⟩ m s = s) ∧
    (∀ ea p, Operand.postInc ⟨ea, some p⟩ m s = s.writeWord m (p + 1)) ∧
    s.index .ix = s.ix ∧ s.index .iy = s.iy ∧ s.index .sp = s.sp

/-- R36: a read gives the word last written to the address and changes nothing, a write replaces that word
alone, a write to `rom` or `absent` changes nothing, and a read of an `absent` address leaves everything but
the draw count alone. Rests on the spec's own decision D24. -/
def Obligations.MemoryReadsWhatWasWritten : Prop :=
  ∀ (s : State) (a v : Word),
    (kindAt s.params a = .ram →
      (s.writeWord a v).readWord a = (v, s.writeWord a v) ∧
      ∀ b, b ≠ a → kindAt s.params b ≠ .absent →
        (s.writeWord a v).readWord b = (s.mem.word b, s.writeWord a v)) ∧
    (∃ mem, s.writeWord a v = { s with mem := mem } ∧ WordStored s.params s.mem mem a v) ∧
    (kindAt s.params a ≠ .ram → s.writeWord a v = s) ∧
    (kindAt s.params a ≠ .absent → s.readWord a = (s.mem.word a, s)) ∧
    ∃ w n, s.readWord a = (w, { s with draws := n })

/-- R41: a stored word is what the next fetch of that address reads; there is no other copy. Rests on the
spec's own decision D27. -/
def Obligations.FetchSeesStoredWord : Prop :=
  ∀ (s : State) (a v : Word), kindAt s.params a = .ram →
    (s.writeWord a v).fetchWord a = .ok (v, s.writeWord a v)

/-- R44: the slot and the movement of SP in each of the four disciplines, and the law of the stack: a pop
after a push returns the pushed word, restores SP and leaves the pushed word in memory. Rests on the spec's
own decisions D1, D2. -/
def Obligations.PopAfterPushReturnsTheWord : Prop :=
  ∀ (s : State) (v : Word),
    (s.params.stackModel = .fullDescending →
      s.pushSlot = s.sp - 1 ∧ s.spAfterPush = s.sp - 1 ∧ s.popSlot = s.sp ∧ s.spAfterPop = s.sp + 1) ∧
    (s.params.stackModel = .emptyDescending →
      s.pushSlot = s.sp ∧ s.spAfterPush = s.sp - 1 ∧ s.popSlot = s.sp + 1 ∧ s.spAfterPop = s.sp + 1) ∧
    (s.params.stackModel = .fullAscending →
      s.pushSlot = s.sp + 1 ∧ s.spAfterPush = s.sp + 1 ∧ s.popSlot = s.sp ∧ s.spAfterPop = s.sp - 1) ∧
    (s.params.stackModel = .emptyAscending →
      s.pushSlot = s.sp ∧ s.spAfterPush = s.sp + 1 ∧ s.popSlot = s.sp - 1 ∧ s.spAfterPop = s.sp - 1) ∧
    (∃ mem, s.push v = { s with sp := s.spAfterPush, mem := mem } ∧
      WordStored s.params s.mem mem s.pushSlot v) ∧
    (∃ w n, s.pop = (w, { s with sp := s.spAfterPop, draws := n }) ∧
      (kindAt s.params s.popSlot ≠ .absent → w = s.mem.word s.popSlot ∧ n = s.draws)) ∧
    (kindAt s.params s.pushSlot = .ram →
      (s.push v).pop = (v, { s with mem := (s.push v).mem }) ∧ (s.push v).mem.word s.pushSlot = v)

/-! The accumulator instructions (40_zero_address_accumulator.md). -/

/-- R106 to R110: the shifts and rotates, in numbers: the bit shifted out goes to CF, OVF is left alone.
Rests on the spec's own decision D9. -/
def Obligations.ShiftsAndRotatesByOnePlace : Prop :=
  (∀ s : State, exec .shl s = .next { s with
    cf := decide (32768 ≤ s.ac.toNat), ac := BitVec.ofNat 16 (2 * s.ac.toNat), pc := s.pc + 1 }) ∧
  (∀ s : State, exec .lsr s = .next { s with
    cf := decide (s.ac.toNat % 2 = 1), ac := BitVec.ofNat 16 (s.ac.toNat / 2), pc := s.pc + 1 }) ∧
  (∀ s : State, exec .asr s = .next { s with
    cf := decide (s.ac.toNat % 2 = 1), ac := BitVec.ofInt 16 (s.ac.toInt / 2), pc := s.pc + 1 }) ∧
  (∀ s : State, exec .rol s = .next { s with
    cf := decide (32768 ≤ s.ac.toNat), ac := BitVec.ofNat 16 (2 * s.ac.toNat + s.cf.toNat),
    pc := s.pc + 1 }) ∧
  (∀ s : State, exec .ror s = .next { s with
    cf := decide (s.ac.toNat % 2 = 1), ac := BitVec.ofNat 16 (s.ac.toNat / 2 + 32768 * s.cf.toNat),
    pc := s.pc + 1 }) ∧
  SpelledOne .shl 0x0020 6 1 ∧ SpelledOne .lsr 0x0021 6 1 ∧ SpelledOne .asr 0x0022 6 1 ∧ SpelledOne .rol 0x0023 6 1 ∧
  SpelledOne .ror 0x0024 6 1

/-- R109, R110: ROR undoes ROL, and 17 ROLs restore AC and CF: the rotation is of the 17 bits CF ++ AC.
Rests on the spec's own decision D9. -/
def Obligations.RotationIsThroughCarry : Prop :=
  (∀ s : State, ∃ t, exec .rol s = .next t ∧ exec .ror t = .next { s with pc := s.pc + 2 }) ∧
  ∀ r : Nat → State, (∀ n, n < 17 → exec .rol (r n) = .next (r (n + 1))) →
    r 17 = { r 0 with pc := (r 0).pc + 17 }

/-- R114 to R116: the byte operations, in numbers; no flag changes. Rests on the spec's own decision D9. -/
def Obligations.ByteMovesOfTheAccumulator : Prop :=
  (∀ s : State, exec .bsw s = .next { s with
    ac := BitVec.ofNat 16 (256 * (s.ac.toNat % 256) + s.ac.toNat / 256), pc := s.pc + 1 }) ∧
  (∀ s : State, exec .bsl s = .next { s with
    ac := BitVec.ofNat 16 (256 * s.ac.toNat), pc := s.pc + 1 }) ∧
  (∀ s : State, exec .bsr s = .next { s with
    ac := BitVec.ofNat 16 (s.ac.toNat / 256), pc := s.pc + 1 }) ∧
  SpelledOne .bsw 0x0045 20 1 ∧ SpelledOne .bsl 0x0046 12 1 ∧ SpelledOne .bsr 0x0047 12 1

/-- R104, R105, R112, R113: the accumulator or the carry flag is set or cleared, and nothing else. Rests on
the spec's own decision D9. -/
def Obligations.SetAndClear : Prop :=
  (∀ s : State, exec .set s = .next { s with ac := 0xFFFF, pc := s.pc + 1 }) ∧
  (∀ s : State, exec .clr s = .next { s with ac := 0x0000, pc := s.pc + 1 }) ∧
  (∀ s : State, exec .scf s = .next { s with cf := true, pc := s.pc + 1 }) ∧
  (∀ s : State, exec .ccf s = .next { s with cf := false, pc := s.pc + 1 }) ∧
  SpelledOne .set 0x001E 6 1 ∧ SpelledOne .clr 0x001F 6 1 ∧ SpelledOne .scf 0x0026 6 1 ∧ SpelledOne .ccf 0x0027 6 1

/-- R100, R101, R103: the result of INC, DEC and NEG, and their flags as `FLAGS_ACC_UNARY` says: kept, those
of the operation, or (under `any`) some bits. Rests on the spec's own decisions D5, D6. -/
def Obligations.IncDecNegResults : Prop :=
  (∀ s : State, ∃ c v n, exec .inc s = .next { s with
      ac := BitVec.ofNat 16 (s.ac.toNat + 1), cf := c, ovf := v, draws := n, pc := s.pc + 1 } ∧
    AccUnaryFlagsAre s (decide (65536 ≤ s.ac.toNat + 1)) (outsideSigned (s.ac.toInt + 1)) c v) ∧
  (∀ s : State, ∃ c v n, exec .dec s = .next { s with
      ac := BitVec.ofInt 16 ((s.ac.toNat : Int) - 1), cf := c, ovf := v, draws := n, pc := s.pc + 1 } ∧
    AccUnaryFlagsAre s (borrowAsFlag s (decide ((s.ac.toNat : Int) - 1 < 0)))
      (outsideSigned (s.ac.toInt - 1)) c v) ∧
  (∀ s : State, ∃ c v n, exec .neg s = .next { s with
      ac := BitVec.ofInt 16 (-(s.ac.toNat : Int)), cf := c, ovf := v, draws := n, pc := s.pc + 1 } ∧
    AccUnaryFlagsAre s (borrowAsFlag s (decide (-(s.ac.toNat : Int) < 0)))
      (outsideSigned (-s.ac.toInt)) c v) ∧
  SpelledOne .inc 0x001A 7 2 ∧ SpelledOne .dec 0x001B 7 2 ∧ SpelledOne .neg 0x001D 6 1

/-- R102: COM inverts every bit, that is 0xFFFF - AC, and twice restores AC; the flags as `FLAGS_LOGIC`
says. Rests on the spec's own decision D7. -/
def Obligations.ComInvertsEveryBit : Prop :=
  (∀ s : State, ∃ c v n, exec .com s = .next { s with
      ac := BitVec.ofNat 16 (65535 - s.ac.toNat), cf := c, ovf := v, draws := n, pc := s.pc + 1 } ∧
    (s.params.flagsLogic = .unchanged → c = s.cf ∧ v = s.ovf)) ∧
  (∀ s t u : State, exec .com s = .next t → exec .com t = .next u → u.ac = s.ac) ∧
  SpelledOne .com 0x001C 6 1

/-- R111, R19: LSW loads the word the environment shows, whatever it is, and records no I/O event. Rests on
the spec's own decisions D9, D26. -/
def Obligations.LswLoadsTheSwitches : Prop :=
  (∀ s : State, ∃ v n, exec .lsw s = .next { s with
      ac := v, switchScript := s.switchScript.tail, draws := n, pc := s.pc + 1 } ∧
    ∀ a l, s.switchScript = a :: l → v = a) ∧
  SpelledOne .lsw 0x0025 6 1

/-! Stack and register instructions (41_zero_address_stack_register.md). -/

/-- R120, R136, R138: a push stores the register at the next stack slot, moves SP and changes nothing else.
Rests on the spec's own decisions D2, D9. -/
def Obligations.PushesStoreTheRegister : Prop :=
  (∀ s : State, ∃ mem, exec .psa s = .next { s with sp := s.spAfterPush, mem := mem, pc := s.pc + 1 } ∧
    WordStored s.params s.mem mem s.pushSlot s.ac) ∧
  (∀ s : State, ∃ mem, exec .psx s = .next { s with sp := s.spAfterPush, mem := mem, pc := s.pc + 1 } ∧
    WordStored s.params s.mem mem s.pushSlot s.ix) ∧
  (∀ s : State, ∃ mem, exec .psy s = .next { s with sp := s.spAfterPush, mem := mem, pc := s.pc + 1 } ∧
    WordStored s.params s.mem mem s.pushSlot s.iy) ∧
  SpelledOne .psa 0x0028 7 2 ∧ SpelledOne .psx 0x0041 7 2 ∧ SpelledOne .psy 0x0043 7 2

/-- R121, R137, R139: a pop loads the register with the word on top of the stack, moves SP and changes
nothing else; the word popped stays in memory. Rests on the spec's own decisions D2, D9. -/
def Obligations.PopsLoadTheRegister : Prop :=
  (∀ s : State, ∃ v n, exec .poa s = .next { s with
      ac := v, sp := s.spAfterPop, draws := n, pc := s.pc + 1 } ∧
    (kindAt s.params s.popSlot ≠ .absent → v = s.mem.word s.popSlot ∧ n = s.draws)) ∧
  (∀ s : State, ∃ v n, exec .pox s = .next { s with
      ix := v, sp := s.spAfterPop, draws := n, pc := s.pc + 1 } ∧
    (kindAt s.params s.popSlot ≠ .absent → v = s.mem.word s.popSlot ∧ n = s.draws)) ∧
  (∀ s : State, ∃ v n, exec .poy s = .next { s with
      iy := v, sp := s.spAfterPop, draws := n, pc := s.pc + 1 } ∧
    (kindAt s.params s.popSlot ≠ .absent → v = s.mem.word s.popSlot ∧ n = s.draws)) ∧
  SpelledOne .poa 0x0029 6 2 ∧ SpelledOne .pox 0x0042 6 2 ∧ SpelledOne .poy 0x0044 6 2

/-- R122, R123: PSF pushes a word with CF and OVF at their bits (its other bits are not stated), and POF
loads both flags from the popped word and ignores its other bits. Rests on the spec's own decisions D2, D10.
-/
def Obligations.FlagRegisterPushAndPop : Prop :=
  (∀ s : State, ∃ w mem n, exec .psf s = .next { s with
      sp := s.spAfterPush, mem := mem, draws := n, pc := s.pc + 1 } ∧
    WordStored s.params s.mem mem s.pushSlot w ∧
    (s.params.frCfBit ≠ s.params.frOvfBit →
      w.getLsbD s.params.frCfBit.val = s.cf ∧ w.getLsbD s.params.frOvfBit.val = s.ovf)) ∧
  (∀ s : State, ∃ w n, exec .pof s = .next { s with
      cf := w.getLsbD s.params.frCfBit.val, ovf := w.getLsbD s.params.frOvfBit.val,
      sp := s.spAfterPop, draws := n, pc := s.pc + 1 } ∧
    (kindAt s.params s.popSlot ≠ .absent → w = s.mem.word s.popSlot ∧ n = s.draws)) ∧
  SpelledOne .psf 0x002A 7 2 ∧ SpelledOne .pof 0x002B 6 2

/-- R16, R123: PSF then POF restores CF and OVF whatever happened to them between, provided SP and the stack
word are intact. Rests on the spec's own decisions D2, D10. -/
def Obligations.PofAfterPsfRestoresTheFlags : Prop :=
  ∀ s t : State, s.params.frCfBit ≠ s.params.frOvfBit → kindAt s.params s.pushSlot = .ram →
    exec .psf s = .next t →
    ∀ h : State, h.sp = t.sp → h.params = t.params → h.mem.word s.pushSlot = t.mem.word s.pushSlot →
      exec .pof h = .next { h with cf := s.cf, ovf := s.ovf, sp := s.sp, pc := h.pc + 1 }

/-- R124 to R129: the six register steps, in numbers, and their flags as `FLAGS_STEP` says. Rests on the
spec's own decisions D1, D8. -/
def Obligations.RegisterStepsByOne : Prop :=
  (∀ s : State, ∃ c v n, exec .inx s = .next { s with
      ix := BitVec.ofNat 16 (s.ix.toNat + 1), cf := c, ovf := v, draws := n, pc := s.pc + 1 } ∧
    (s.params.flagsStep = .unchanged → c = s.cf ∧ v = s.ovf)) ∧
  (∀ s : State, ∃ c v n, exec .iny s = .next { s with
      iy := BitVec.ofNat 16 (s.iy.toNat + 1), cf := c, ovf := v, draws := n, pc := s.pc + 1 } ∧
    (s.params.flagsStep = .unchanged → c = s.cf ∧ v = s.ovf)) ∧
  (∀ s : State, ∃ c v n, exec .ins s = .next { s with
      sp := BitVec.ofNat 16 (s.sp.toNat + 1), cf := c, ovf := v, draws := n, pc := s.pc + 1 } ∧
    (s.params.flagsStep = .unchanged → c = s.cf ∧ v = s.ovf)) ∧
  (∀ s : State, ∃ c v n, exec .dex s = .next { s with
      ix := BitVec.ofNat 16 (s.ix.toNat + 65535), cf := c, ovf := v, draws := n, pc := s.pc + 1 } ∧
    (s.params.flagsStep = .unchanged → c = s.cf ∧ v = s.ovf)) ∧
  (∀ s : State, ∃ c v n, exec .dey s = .next { s with
      iy := BitVec.ofNat 16 (s.iy.toNat + 65535), cf := c, ovf := v, draws := n, pc := s.pc + 1 } ∧
    (s.params.flagsStep = .unchanged → c = s.cf ∧ v = s.ovf)) ∧
  (∀ s : State, ∃ c v n, exec .des s = .next { s with
      sp := BitVec.ofNat 16 (s.sp.toNat + 65535), cf := c, ovf := v, draws := n, pc := s.pc + 1 } ∧
    (s.params.flagsStep = .unchanged → c = s.cf ∧ v = s.ovf)) ∧
  SpelledOne .inx 0x0035 6 1 ∧ SpelledOne .iny 0x0036 6 1 ∧ SpelledOne .ins 0x0037 6 1 ∧ SpelledOne .dex 0x0038 6 1 ∧
  SpelledOne .dey 0x0039 6 1 ∧ SpelledOne .des 0x003A 6 1

/-- R130 to R135: the six register moves. Rests on the spec's own decision D9. -/
def Obligations.RegisterMovesCopy : Prop :=
  (∀ s : State, exec .max s = .next { s with ix := s.ac, pc := s.pc + 1 }) ∧
  (∀ s : State, exec .may s = .next { s with iy := s.ac, pc := s.pc + 1 }) ∧
  (∀ s : State, exec .mas s = .next { s with sp := s.ac, pc := s.pc + 1 }) ∧
  (∀ s : State, exec .mxa s = .next { s with ac := s.ix, pc := s.pc + 1 }) ∧
  (∀ s : State, exec .mya s = .next { s with ac := s.iy, pc := s.pc + 1 }) ∧
  (∀ s : State, exec .msa s = .next { s with ac := s.sp, pc := s.pc + 1 }) ∧
  SpelledOne .max 0x003B 6 1 ∧ SpelledOne .may 0x003C 6 1 ∧ SpelledOne .mas 0x003D 6 1 ∧ SpelledOne .mxa 0x003E 6 1 ∧
  SpelledOne .mya 0x003F 6 1 ∧ SpelledOne .msa 0x0040 6 1

/-! Control (42_zero_address_control.md). -/

/-- R140, R141, R144: ENI and DII write IE and nothing else, NOP writes nothing. Rests on the spec's own
decisions D9, D21. -/
def Obligations.EniDiiNop : Prop :=
  (∀ s : State, exec .eni s = .next { s with ie := true, pc := s.pc + 1 }) ∧
  (∀ s : State, exec .dii s = .next { s with ie := false, pc := s.pc + 1 }) ∧
  (∀ s : State, exec .nop s = .next { s with pc := s.pc + 1 }) ∧
  SpelledOne .eni 0x002C 5 1 ∧ SpelledOne .dii 0x002D 5 1 ∧ SpelledOne .nop 0x0030 6 1

/-- R146: HLT sets HALT, leaves PC after it, and from then on there is no step, whatever IE and irq are.
Rests on the spec's own decision D22. -/
def Obligations.HltEndsTheRun : Prop :=
  (∀ s : State, exec .hlt s = .next { s with halt := true, pc := s.pc + 1 }) ∧
  (∀ s t : State, acceptedParams s.params = true → exec .hlt s = .next t → step t = .fault .halted) ∧
  (∀ s : State, acceptedParams s.params = true → (step s = .fault .halted ↔ s.halt = true)) ∧
  SpelledOne .hlt 0x00FF 5 1

/-- R142: RTN pops the word on top of the stack into PC. Rests on the spec's own decisions D2, D3. -/
def Obligations.RtnPopsThePc : Prop :=
  (∀ s : State, ∃ v n, exec .rtn s = .next { s with pc := v, sp := s.spAfterPop, draws := n } ∧
    (kindAt s.params s.popSlot ≠ .absent → v = s.mem.word s.popSlot ∧ n = s.draws)) ∧
  SpelledOne .rtn 0x002E 6 2

/-- R203: what trap entry changes and what it does not, for every frame and every stack discipline. The
items of the frame are pushed in order, each at its slot, every byte of memory outside the slots is as
before, and SP has moved by one word for each; IE is cleared; with `direct` entry PC is the handler address,
with `vectored` entry the word there. BRK is that entry with the address of the next instruction and handler
address 0xFFFE, whatever IE is (R145). Rests on the spec's own decisions D2, D10, D17, D20. -/
def Obligations.TrapEntryChangesOnlyItsOwn : Prop :=
  (∀ (s : State) (ret target : Word), ∃ mem sp n pc,
    s.trapEnter ret target = { s with mem := mem, sp := sp, ie := false, pc := pc, draws := n } ∧
    FrameStored s ret s.params.trapFrame s.sp s.mem sp mem ∧
    (∀ k, (∀ a ∈ frameSlots s s.params.trapFrame s.sp, kindAt s.params a = .ram →
      k ≠ lowKey a ∧ k ≠ highKey a) → mem.lookup k = s.mem.lookup k) ∧
    (s.params.stackModel = .fullDescending ∨ s.params.stackModel = .emptyDescending →
      sp = s.sp - BitVec.ofNat 16 s.params.trapFrame.length) ∧
    (s.params.stackModel = .fullAscending ∨ s.params.stackModel = .emptyAscending →
      sp = s.sp + BitVec.ofNat 16 s.params.trapFrame.length) ∧
    (s.params.trapEntryMode = .direct → pc = target) ∧
    (s.params.trapEntryMode = .vectored → kindAt s.params target ≠ .absent → pc = mem.word target) ∧
    ∀ b, kindAt s.params b ≠ .ram → mem.word b = s.mem.word b) ∧
  (∀ s : State, exec .brk s = .next (s.trapEnter (s.pc + 1) 0xFFFE)) ∧
  SpelledOne .brk 0x0048 13 4

/-- R203, R145 with the default frame, stack and entry: the return address is pushed first and the flag word
second, IE is cleared and PC is the handler address; every other byte of memory is as before. Rests on the
spec's own decisions D2, D10, D17, D20. -/
def Obligations.DefaultTrapEntry : Prop :=
  ∀ s : State, s.params.trapFrame = [.pc, .fr] → s.params.stackModel = .fullDescending →
    s.params.trapEntryMode = .direct → s.params.frCfBit ≠ s.params.frOvfBit →
    (∀ ret target : Word, ∃ f mid mem n,
      s.trapEnter ret target =
        { s with mem := mem, sp := s.sp - 2, ie := false, pc := target, draws := n } ∧
      WordStored s.params s.mem mid (s.sp - 1) ret ∧ WordStored s.params mid mem (s.sp - 2) f ∧
      f.getLsbD s.params.frCfBit.val = s.cf ∧ f.getLsbD s.params.frOvfBit.val = s.ovf) ∧
    ∃ f mid mem n,
      exec .brk s = .next { s with mem := mem, sp := s.sp - 2, ie := false, pc := 0xFFFE, draws := n } ∧
      WordStored s.params s.mem mid (s.sp - 1) (s.pc + 1) ∧ WordStored s.params mid mem (s.sp - 2) f ∧
      f.getLsbD s.params.frCfBit.val = s.cf ∧ f.getLsbD s.params.frOvfBit.val = s.ovf

/-- R143, R205: RTI completes whenever the frame holds PC, for every frame: IE becomes 1, the registers the
frame does not name keep their values, memory and I/O are untouched; with the default frame and stack the
flags come from the word on top and PC from the word above it. A frame without PC is refused (U17). Rests on
the spec's own decisions D2, D10, D18. -/
def Obligations.RtiPopsTheFrame : Prop :=
  (∀ s : State, FrameItem.pc ∈ s.params.trapFrame → ∃ ac ix iy sp pc c v n,
    exec .rti s = .next { s with
      ac := ac, ix := ix, iy := iy, sp := sp, pc := pc, cf := c, ovf := v, ie := true, draws := n } ∧
    (FrameItem.ac ∉ s.params.trapFrame → ac = s.ac) ∧ (FrameItem.ix ∉ s.params.trapFrame → ix = s.ix) ∧
    (FrameItem.iy ∉ s.params.trapFrame → iy = s.iy) ∧
    (FrameItem.fr ∉ s.params.trapFrame → c = s.cf ∧ v = s.ovf)) ∧
  (∀ s : State, s.params.trapFrame = [.pc, .fr] → s.params.stackModel = .fullDescending →
    kindAt s.params s.sp ≠ .absent → kindAt s.params (s.sp + 1) ≠ .absent →
    exec .rti s = .next { s with
      cf := (s.mem.word s.sp).getLsbD s.params.frCfBit.val,
      ovf := (s.mem.word s.sp).getLsbD s.params.frOvfBit.val,
      sp := s.sp + 2, ie := true, pc := s.mem.word (s.sp + 1) }) ∧
  (∀ s : State, FrameItem.pc ∉ s.params.trapFrame → exec .rti s = .refused .refusedParameters) ∧
  SpelledOne .rti 0x002F 10 4

/-- R204, R205: RTI is the inverse of trap entry for every frame, every stack discipline and either entry
mode. `h` is the state at the end of a handler that has left SP and the words of the frame as it found them
and may have changed everything else, the rest of memory included: the program resumes after the BRK with SP
restored and interrupts enabled, each register the frame names as it was at the BRK, and each it does not
name as the handler left it. Rests on the spec's own decisions D2, D10, D17, D18. -/
def Obligations.RtiUndoesTrapEntry : Prop :=
  ∀ s t h : State, acceptedParams s.params = true → exec .brk s = .next t →
    h.params = t.params → h.sp = t.sp →
    (∀ a ∈ frameSlots s s.params.trapFrame s.sp,
      kindAt s.params a = .ram ∧ h.mem.word a = t.mem.word a) →
    exec .rti h = .next { h with
      ac := if FrameItem.ac ∈ s.params.trapFrame then s.ac else h.ac,
      ix := if FrameItem.ix ∈ s.params.trapFrame then s.ix else h.ix,
      iy := if FrameItem.iy ∈ s.params.trapFrame then s.iy else h.iy,
      cf := if FrameItem.fr ∈ s.params.trapFrame then s.cf else h.cf,
      ovf := if FrameItem.fr ∈ s.params.trapFrame then s.ovf else h.ovf,
      sp := s.sp, ie := true, pc := s.pc + 1 }

/-! Loads and stores (43, 47). -/

/-- R150: LDA in each form. The datum is the operand word, or the word at the form's address; a
post-increment form then stores the pointer plus one at `m`. Where an address read is `absent` the load
still completes, with some word. Rests on the spec's own decisions D1, D9, D12. -/
def Obligations.LdaReadsTheOperandOfItsForm : Prop :=
  (∀ (s : State) (m : Word),
    exec (.lda .immediate m) s = .next { s with ac := m, pc := s.pc + 2 } ∧
    (kindAt s.params m ≠ .absent →
      exec (.lda .direct m) s = .next { s with ac := s.mem.word m, pc := s.pc + 2 }) ∧
    (∀ x, kindAt s.params (m + s.index x) ≠ .absent →
      exec (.lda (.indexed x) m) s = .next { s with ac := s.mem.word (m + s.index x), pc := s.pc + 2 }) ∧
    (kindAt s.params m ≠ .absent →
      (kindAt s.params (s.mem.word m) ≠ .absent →
        exec (.lda .indirect m) s = .next { s with ac := s.mem.word (s.mem.word m), pc := s.pc + 2 } ∧
        ∃ mem, exec (.lda .postInc m) s =
            .next { s with ac := s.mem.word (s.mem.word m), mem := mem, pc := s.pc + 2 } ∧
          WordStored s.params s.mem mem m (s.mem.word m + 1)) ∧
      ∀ x, kindAt s.params (s.mem.word m + s.index x) ≠ .absent →
        exec (.lda (.indirectIndexed x) m) s =
          .next { s with ac := s.mem.word (s.mem.word m + s.index x), pc := s.pc + 2 } ∧
        ∃ mem, exec (.lda (.postIncIndexed x) m) s =
            .next { s with ac := s.mem.word (s.mem.word m + s.index x), mem := mem, pc := s.pc + 2 } ∧
          WordStored s.params s.mem mem m (s.mem.word m + 1))) ∧
  (∀ (s : State) (f : Form) (m : Word), ∃ v mem n,
    exec (.lda f m) s = .next { s with ac := v, mem := mem, draws := n, pc := s.pc + 2 } ∧
    PostIncDone s f m s.mem mem) ∧
  SpelledTwo .f13 .lda
      [0x0301, 0x0101, 0x0501, 0x0D01, 0x1101, 0x2101, 0x3101, 0x1501, 0x2501, 0x3501, 0x1D01, 0x2D01,
       0x3D01]
      [⟨8, 2⟩, ⟨8, 3⟩, ⟨9, 4⟩, ⟨12, 5⟩, ⟨8, 3⟩, ⟨8, 3⟩, ⟨8, 3⟩, ⟨9, 4⟩, ⟨9, 4⟩, ⟨9, 4⟩, ⟨12, 5⟩, ⟨12, 5⟩,
       ⟨12, 5⟩]

/-- R151, R190, R191: LDS, LDX and LDY load the datum LDA loads in the same form, into their own register,
with the old index register forming the address (R68). Rests on the spec's own decision D9. -/
def Obligations.LoadsFollowLda : Prop :=
  (∀ (s : State) (f : Form) (m : Word), ∃ t, exec (.lda f m) s = .next t ∧
    exec (.lds f m) s = .next { t with ac := s.ac, sp := t.ac } ∧
    exec (.ldx f m) s = .next { t with ac := s.ac, ix := t.ac } ∧
    exec (.ldy f m) s = .next { t with ac := s.ac, iy := t.ac }) ∧
  SpelledTwo .f13 .lds
      [0x0302, 0x0102, 0x0502, 0x0D02, 0x1102, 0x2102, 0x3102, 0x1502, 0x2502, 0x3502, 0x1D02, 0x2D02,
       0x3D02]
      [⟨8, 2⟩, ⟨8, 3⟩, ⟨9, 4⟩, ⟨12, 5⟩, ⟨8, 3⟩, ⟨8, 3⟩, ⟨8, 3⟩, ⟨9, 4⟩, ⟨9, 4⟩, ⟨9, 4⟩, ⟨12, 5⟩, ⟨12, 5⟩,
       ⟨12, 5⟩] ∧
  SpelledTwo .f13 .ldx
      [0x0331, 0x0131, 0x0531, 0x0D31, 0x1131, 0x2131, 0x3131, 0x1531, 0x2531, 0x3531, 0x1D31, 0x2D31,
       0x3D31]
      [⟨8, 2⟩, ⟨8, 3⟩, ⟨9, 4⟩, ⟨12, 5⟩, ⟨8, 3⟩, ⟨8, 3⟩, ⟨8, 3⟩, ⟨9, 4⟩, ⟨9, 4⟩, ⟨9, 4⟩, ⟨12, 5⟩, ⟨12, 5⟩,
       ⟨12, 5⟩] ∧
  SpelledTwo .f13 .ldy
      [0x0332, 0x0132, 0x0532, 0x0D32, 0x1132, 0x2132, 0x3132, 0x1532, 0x2532, 0x3532, 0x1D32, 0x2D32,
       0x3D32]
      [⟨8, 2⟩, ⟨8, 3⟩, ⟨9, 4⟩, ⟨12, 5⟩, ⟨8, 3⟩, ⟨8, 3⟩, ⟨8, 3⟩, ⟨9, 4⟩, ⟨9, 4⟩, ⟨9, 4⟩, ⟨12, 5⟩, ⟨12, 5⟩,
       ⟨12, 5⟩]

/-- R152, R153, R192, R193: a store writes its register at the effective address and then commits the
post-increment; nothing else changes. The immediate form is an undefined word. Rests on the spec's own
decisions D9, D12, D13, D16. -/
def Obligations.StoresWriteTheirRegister : Prop :=
  (∀ (r : Reg) (f : Form) (m : Word) (s : State), f ≠ .immediate → ∃ ea mid mem n,
    (resolve f m s).1.ea = some ea ∧
    exec (r.storeInstr f m) s = .next { s with mem := mem, draws := n, pc := s.pc + 2 } ∧
    WordStored s.params s.mem mid ea (r.read s) ∧ PostIncDone s f m mid mem) ∧
  (∀ (r : Reg) (m : Word) (s : State), exec (r.storeInstr .immediate m) s =
    .fault (.undefinedOpcode (r.storeInstr .immediate m).opcodeWord s)) ∧
  SpelledTwo .f12 .sta
      [0x0103, 0x0503, 0x0D03, 0x1103, 0x2103, 0x3103, 0x1503, 0x2503, 0x3503, 0x1D03, 0x2D03, 0x3D03]
      [⟨7, 3⟩, ⟨8, 4⟩, ⟨11, 5⟩, ⟨7, 3⟩, ⟨7, 3⟩, ⟨7, 3⟩, ⟨8, 4⟩, ⟨8, 4⟩, ⟨8, 4⟩, ⟨11, 5⟩, ⟨11, 5⟩, ⟨11, 5⟩] ∧
  SpelledTwo .f12 .sts
      [0x0104, 0x0504, 0x0D04, 0x1104, 0x2104, 0x3104, 0x1504, 0x2504, 0x3504, 0x1D04, 0x2D04, 0x3D04]
      [⟨7, 3⟩, ⟨8, 4⟩, ⟨11, 5⟩, ⟨7, 3⟩, ⟨7, 3⟩, ⟨7, 3⟩, ⟨8, 4⟩, ⟨8, 4⟩, ⟨8, 4⟩, ⟨11, 5⟩, ⟨11, 5⟩, ⟨11, 5⟩] ∧
  SpelledTwo .f12 .stx
      [0x0133, 0x0533, 0x0D33, 0x1133, 0x2133, 0x3133, 0x1533, 0x2533, 0x3533, 0x1D33, 0x2D33, 0x3D33]
      [⟨7, 3⟩, ⟨8, 4⟩, ⟨11, 5⟩, ⟨7, 3⟩, ⟨7, 3⟩, ⟨7, 3⟩, ⟨8, 4⟩, ⟨8, 4⟩, ⟨8, 4⟩, ⟨11, 5⟩, ⟨11, 5⟩, ⟨11, 5⟩] ∧
  SpelledTwo .f12 .sty
      [0x0134, 0x0534, 0x0D34, 0x1134, 0x2134, 0x3134, 0x1534, 0x2534, 0x3534, 0x1D34, 0x2D34, 0x3D34]
      [⟨7, 3⟩, ⟨8, 4⟩, ⟨11, 5⟩, ⟨7, 3⟩, ⟨7, 3⟩, ⟨7, 3⟩, ⟨8, 4⟩, ⟨8, 4⟩, ⟨8, 4⟩, ⟨11, 5⟩, ⟨11, 5⟩, ⟨11, 5⟩]

/-- R70: the two corners of the commit order. (a) Where a post-increment form stores to its own pointer
word, the pointer plus one is what is left there, not the datum. (b) A post-increment load whose operand
word is its own address rewrites its own operand word. Rests on the spec's own decisions D12, D13. -/
def Obligations.PostIncrementIsCommittedLast : Prop :=
  (∀ (r : Reg) (m : Word) (s : State), kindAt s.params m = .ram → s.mem.word m = m →
    ∃ t, exec (r.storeInstr .postInc m) s = .next t ∧ t.mem.word m = m + 1) ∧
  ∀ s : State, Fetches s → Readable s s.pc → kindAt s.params (s.pc + 1) = .ram →
    s.mem.loaded (s.pc + 1) = true → s.mem.word s.pc = 0x0D01 → s.mem.word (s.pc + 1) = s.pc + 1 →
    ∃ t, step s = .next t ∧ t.ac = s.pc + 1 ∧ t.mem.word (s.pc + 1) = s.pc + 2 ∧ t.pc = s.pc + 2

/-! Arithmetic and logic (44). -/

/-- R158, R160, R161: ADD and ADC of the datum LDA loads in the same form: the sum modulo 2^16, CF when the
unsigned sum does not fit, OVF when the signed sum does not. Rests on the spec's own decision D4. -/
def Obligations.AddAndAdcResults : Prop :=
  (∀ (s : State) (f : Form) (m : Word), ∃ t, exec (.lda f m) s = .next t ∧
    exec (.add f m) s = .next { t with
      ac := BitVec.ofNat 16 (s.ac.toNat + t.ac.toNat),
      cf := decide (65536 ≤ s.ac.toNat + t.ac.toNat),
      ovf := outsideSigned (s.ac.toInt + t.ac.toInt) } ∧
    exec (.adc f m) s = .next { t with
      ac := BitVec.ofNat 16 (s.ac.toNat + t.ac.toNat + s.cf.toNat),
      cf := decide (65536 ≤ s.ac.toNat + t.ac.toNat + s.cf.toNat),
      ovf := outsideSigned (s.ac.toInt + t.ac.toInt + s.cf.toNat) }) ∧
  SpelledTwo .f13 .add
      [0x0305, 0x0105, 0x0505, 0x0D05, 0x1105, 0x2105, 0x3105, 0x1505, 0x2505, 0x3505, 0x1D05, 0x2D05,
       0x3D05]
      [⟨7, 2⟩, ⟨8, 3⟩, ⟨9, 4⟩, ⟨12, 5⟩, ⟨8, 3⟩, ⟨8, 3⟩, ⟨8, 3⟩, ⟨9, 4⟩, ⟨9, 4⟩, ⟨9, 4⟩, ⟨12, 5⟩, ⟨12, 5⟩,
       ⟨12, 5⟩] ∧
  SpelledTwo .f13 .adc
      [0x0306, 0x0106, 0x0506, 0x0D06, 0x1106, 0x2106, 0x3106, 0x1506, 0x2506, 0x3506, 0x1D06, 0x2D06,
       0x3D06]
      [⟨7, 2⟩, ⟨8, 3⟩, ⟨9, 4⟩, ⟨12, 5⟩, ⟨8, 3⟩, ⟨8, 3⟩, ⟨8, 3⟩, ⟨9, 4⟩, ⟨9, 4⟩, ⟨9, 4⟩, ⟨12, 5⟩, ⟨12, 5⟩,
       ⟨12, 5⟩]

/-- R159, R162, R163: SUB and SBC of the datum LDA loads in the same form: AC minus the datum (minus the
borrow that CF stands for), CF the borrow in the sense of `SUB_CARRY`, OVF when the signed difference does
not fit. Rests on the spec's own decisions D4, D5. -/
def Obligations.SubAndSbcResults : Prop :=
  (∀ (s : State) (f : Form) (m : Word), ∃ t, exec (.lda f m) s = .next t ∧
    exec (.sub f m) s = .next { t with
      ac := BitVec.ofInt 16 ((s.ac.toNat : Int) - t.ac.toNat),
      cf := borrowAsFlag s (decide (s.ac.toNat < t.ac.toNat)),
      ovf := outsideSigned (s.ac.toInt - t.ac.toInt) } ∧
    exec (.sbc f m) s = .next { t with
      ac := BitVec.ofInt 16 ((s.ac.toNat : Int) - t.ac.toNat - (borrowAsFlag s s.cf).toNat),
      cf := borrowAsFlag s (decide (s.ac.toNat < t.ac.toNat + (borrowAsFlag s s.cf).toNat)),
      ovf := outsideSigned (s.ac.toInt - t.ac.toInt - (borrowAsFlag s s.cf).toNat) }) ∧
  SpelledTwo .f13 .sub
      [0x0307, 0x0107, 0x0507, 0x0D07, 0x1107, 0x2107, 0x3107, 0x1507, 0x2507, 0x3507, 0x1D07, 0x2D07,
       0x3D07]
      [⟨7, 2⟩, ⟨8, 3⟩, ⟨9, 4⟩, ⟨12, 5⟩, ⟨8, 3⟩, ⟨8, 3⟩, ⟨8, 3⟩, ⟨9, 4⟩, ⟨9, 4⟩, ⟨9, 4⟩, ⟨12, 5⟩, ⟨12, 5⟩,
       ⟨12, 5⟩] ∧
  SpelledTwo .f13 .sbc
      [0x0308, 0x0108, 0x0508, 0x0D08, 0x1108, 0x2108, 0x3108, 0x1508, 0x2508, 0x3508, 0x1D08, 0x2D08,
       0x3D08]
      [⟨7, 2⟩, ⟨8, 3⟩, ⟨9, 4⟩, ⟨12, 5⟩, ⟨8, 3⟩, ⟨8, 3⟩, ⟨8, 3⟩, ⟨9, 4⟩, ⟨9, 4⟩, ⟨9, 4⟩, ⟨12, 5⟩, ⟨12, 5⟩,
       ⟨12, 5⟩]

/-- R164 to R166: AND, ORA and XOR of the datum LDA loads in the same form, bit by bit; the flags as
`FLAGS_LOGIC` says. Rests on the spec's own decision D7. -/
def Obligations.LogicResults : Prop :=
  (∀ (s : State) (f : Form) (m : Word), ∃ t, exec (.lda f m) s = .next t ∧
    (∃ c v n, exec (.and f m) s = .next { t with ac := s.ac &&& t.ac, cf := c, ovf := v, draws := n } ∧
      (s.params.flagsLogic = .unchanged → c = s.cf ∧ v = s.ovf)) ∧
    (∃ c v n, exec (.ora f m) s = .next { t with ac := s.ac ||| t.ac, cf := c, ovf := v, draws := n } ∧
      (s.params.flagsLogic = .unchanged → c = s.cf ∧ v = s.ovf)) ∧
    ∃ c v n, exec (.xor f m) s = .next { t with ac := s.ac ^^^ t.ac, cf := c, ovf := v, draws := n } ∧
      (s.params.flagsLogic = .unchanged → c = s.cf ∧ v = s.ovf)) ∧
  SpelledTwo .f13 .and
      [0x0309, 0x0109, 0x0509, 0x0D09, 0x1109, 0x2109, 0x3109, 0x1509, 0x2509, 0x3509, 0x1D09, 0x2D09,
       0x3D09]
      [⟨7, 2⟩, ⟨8, 3⟩, ⟨9, 4⟩, ⟨12, 5⟩, ⟨8, 3⟩, ⟨8, 3⟩, ⟨8, 3⟩, ⟨9, 4⟩, ⟨9, 4⟩, ⟨9, 4⟩, ⟨12, 5⟩, ⟨12, 5⟩,
       ⟨12, 5⟩] ∧
  SpelledTwo .f13 .ora
      [0x030A, 0x010A, 0x050A, 0x0D0A, 0x110A, 0x210A, 0x310A, 0x150A, 0x250A, 0x350A, 0x1D0A, 0x2D0A,
       0x3D0A]
      [⟨7, 2⟩, ⟨8, 3⟩, ⟨9, 4⟩, ⟨12, 5⟩, ⟨8, 3⟩, ⟨8, 3⟩, ⟨8, 3⟩, ⟨9, 4⟩, ⟨9, 4⟩, ⟨9, 4⟩, ⟨12, 5⟩, ⟨12, 5⟩,
       ⟨12, 5⟩] ∧
  SpelledTwo .f13 .xor
      [0x030B, 0x010B, 0x050B, 0x0D0B, 0x110B, 0x210B, 0x310B, 0x150B, 0x250B, 0x350B, 0x1D0B, 0x2D0B,
       0x3D0B]
      [⟨7, 2⟩, ⟨8, 3⟩, ⟨9, 4⟩, ⟨12, 5⟩, ⟨8, 3⟩, ⟨8, 3⟩, ⟨8, 3⟩, ⟨9, 4⟩, ⟨9, 4⟩, ⟨9, 4⟩, ⟨12, 5⟩, ⟨12, 5⟩,
       ⟨12, 5⟩]

/-! Skips (45). -/

namespace Sys2Proof.Claims

/-- R170 to R172 for one counting instruction, in a listed form: the word at the effective address is
counted and written back, the post-increment committed; when the new value is not zero the next instruction
follows, and when it is zero the next instruction is passed over whole, or the machine faults on a word
whose length is unknown, with all of that done. -/
def CountsAndSkips (mk : Form → Word → Instr) (count : Word → Word) : Prop :=
  ∀ (f : Form) (m : Word) (s : State), FormSet.f11.admits f = true → ∃ ea old mid mem c v n,
    (resolve f m s).1.ea = some ea ∧ old = ((resolve f m s).2.readWord ea).1 ∧
    WordStored s.params s.mem mid ea (count old) ∧ PostIncDone s f m mid mem ∧
    (s.params.flagsStep = .unchanged → c = s.cf ∧ v = s.ovf) ∧
    let u := { s with mem := mem, cf := c, ovf := v, draws := n }
    (count old ≠ 0 → exec (mk f m) s = .next { u with pc := s.pc + 2 }) ∧
    (count old = 0 → Readable u (s.pc + 2) →
      (∀ len, opcodeLength (mem.word (s.pc + 2)) = some len →
        exec (mk f m) s = .next { u with pc := s.pc + 2 + BitVec.ofNat 16 len }) ∧
      (opcodeLength (mem.word (s.pc + 2)) = none →
        exec (mk f m) s = .fault (.undefinedOpcode (mem.word (s.pc + 2)) u))) ∧
    (count old = 0 → kindAt s.params (s.pc + 2) ≠ .absent → mem.loaded (s.pc + 2) = false →
      exec (mk f m) s = .fault (.unloadedFetch (s.pc + 2) u))

end Sys2Proof.Claims

/-- R170 to R172: ISZ counts up and DSZ counts down, in the 11 forms; the two others are undefined words. A
skip over a word nothing has loaded faults under its own name (the model's choice that U5 recommends; log
entry 7). Rests on the spec's own decisions D8, D12, D13, D14, D15, D16. -/
def Obligations.IszAndDszCountAndSkip : Prop :=
  CountsAndSkips .isz (fun w => w + 1) ∧ CountsAndSkips .dsz (fun w => w - 1) ∧
  (∀ (f : Form) (m : Word) (s : State), FormSet.f11.admits f = false →
    exec (.isz f m) s = .fault (.undefinedOpcode (Instr.isz f m).opcodeWord s) ∧
    exec (.dsz f m) s = .fault (.undefinedOpcode (Instr.dsz f m).opcodeWord s)) ∧
  SpelledTwo .f11 .isz
      [0x010C, 0x050C, 0x110C, 0x210C, 0x310C, 0x150C, 0x250C, 0x350C, 0x1D0C, 0x2D0C, 0x3D0C]
      [⟨9, 4⟩, ⟨10, 5⟩, ⟨9, 4⟩, ⟨9, 4⟩, ⟨9, 4⟩, ⟨10, 5⟩, ⟨10, 5⟩, ⟨10, 5⟩, ⟨13, 5⟩, ⟨13, 5⟩, ⟨13, 5⟩] ∧
  SpelledTwo .f11 .dsz
      [0x010D, 0x050D, 0x110D, 0x210D, 0x310D, 0x150D, 0x250D, 0x350D, 0x1D0D, 0x2D0D, 0x3D0D]
      [⟨9, 4⟩, ⟨10, 5⟩, ⟨9, 4⟩, ⟨9, 4⟩, ⟨9, 4⟩, ⟨10, 5⟩, ⟨10, 5⟩, ⟨10, 5⟩, ⟨13, 5⟩, ⟨13, 5⟩, ⟨13, 5⟩]

/-! Jumps and call (46). -/

/-- R179 to R188: the target is the datum LDA loads in the same form; it is resolved and the post-increment
committed whether or not the condition holds, and only PC depends on the condition. Rests on the spec's own
decisions D9, D11, D32, D36. -/
def Obligations.JumpsGoToTheLoadedTarget : Prop :=
  (∀ (s : State) (f : Form) (m : Word), ∃ t, exec (.lda f m) s = .next t ∧
    exec (.jmp f m) s = .next { t with ac := s.ac, pc := t.ac } ∧
    exec (.joz f m) s = .next { t with ac := s.ac, pc := if s.ac.toNat = 0 then t.ac else s.pc + 2 } ∧
    exec (.jnz f m) s = .next { t with ac := s.ac, pc := if s.ac.toNat = 0 then s.pc + 2 else t.ac } ∧
    exec (.jpl f m) s = .next { t with ac := s.ac, pc := if 0 ≤ s.ac.toInt then t.ac else s.pc + 2 } ∧
    exec (.jmi f m) s = .next { t with ac := s.ac, pc := if s.ac.toInt < 0 then t.ac else s.pc + 2 } ∧
    exec (.joc f m) s = .next { t with ac := s.ac, pc := if s.cf then t.ac else s.pc + 2 } ∧
    exec (.jnc f m) s = .next { t with ac := s.ac, pc := if s.cf then s.pc + 2 else t.ac } ∧
    exec (.jov f m) s = .next { t with ac := s.ac, pc := if s.ovf then t.ac else s.pc + 2 } ∧
    exec (.jnv f m) s = .next { t with ac := s.ac, pc := if s.ovf then s.pc + 2 else t.ac }) ∧
  SpelledTwo .f13 .jmp
      [0x030E, 0x010E, 0x050E, 0x0D0E, 0x110E, 0x210E, 0x310E, 0x150E, 0x250E, 0x350E, 0x1D0E, 0x2D0E,
       0x3D0E]
      [⟨7, 2⟩, ⟨8, 3⟩, ⟨9, 4⟩, ⟨12, 5⟩, ⟨8, 3⟩, ⟨8, 3⟩, ⟨8, 3⟩, ⟨9, 4⟩, ⟨9, 4⟩, ⟨9, 4⟩, ⟨12, 5⟩, ⟨12, 5⟩,
       ⟨12, 5⟩] ∧
  SpelledTwo .f13 .joz
      [0x030F, 0x010F, 0x050F, 0x0D0F, 0x110F, 0x210F, 0x310F, 0x150F, 0x250F, 0x350F, 0x1D0F, 0x2D0F,
       0x3D0F]
      [⟨9, 2⟩, ⟨10, 3⟩, ⟨11, 4⟩, ⟨14, 5⟩, ⟨10, 3⟩, ⟨10, 3⟩, ⟨10, 3⟩, ⟨11, 4⟩, ⟨11, 4⟩, ⟨11, 4⟩, ⟨14, 5⟩,
       ⟨14, 5⟩, ⟨14, 5⟩] ∧
  SpelledTwo .f13 .jnz
      [0x0310, 0x0110, 0x0510, 0x0D10, 0x1110, 0x2110, 0x3110, 0x1510, 0x2510, 0x3510, 0x1D10, 0x2D10,
       0x3D10]
      [⟨9, 2⟩, ⟨10, 3⟩, ⟨11, 4⟩, ⟨14, 5⟩, ⟨10, 3⟩, ⟨10, 3⟩, ⟨10, 3⟩, ⟨11, 4⟩, ⟨11, 4⟩, ⟨11, 4⟩, ⟨14, 5⟩,
       ⟨14, 5⟩, ⟨14, 5⟩] ∧
  SpelledTwo .f13 .jpl
      [0x0311, 0x0111, 0x0511, 0x0D11, 0x1111, 0x2111, 0x3111, 0x1511, 0x2511, 0x3511, 0x1D11, 0x2D11,
       0x3D11]
      [⟨9, 2⟩, ⟨10, 3⟩, ⟨11, 4⟩, ⟨14, 5⟩, ⟨10, 3⟩, ⟨10, 3⟩, ⟨10, 3⟩, ⟨11, 4⟩, ⟨11, 4⟩, ⟨11, 4⟩, ⟨14, 5⟩,
       ⟨14, 5⟩, ⟨14, 5⟩] ∧
  SpelledTwo .f13 .jmi
      [0x0312, 0x0112, 0x0512, 0x0D12, 0x1112, 0x2112, 0x3112, 0x1512, 0x2512, 0x3512, 0x1D12, 0x2D12,
       0x3D12]
      [⟨9, 2⟩, ⟨10, 3⟩, ⟨11, 4⟩, ⟨14, 5⟩, ⟨10, 3⟩, ⟨10, 3⟩, ⟨10, 3⟩, ⟨11, 4⟩, ⟨11, 4⟩, ⟨11, 4⟩, ⟨14, 5⟩,
       ⟨14, 5⟩, ⟨14, 5⟩] ∧
  SpelledTwo .f13 .joc
      [0x0313, 0x0113, 0x0513, 0x0D13, 0x1113, 0x2113, 0x3113, 0x1513, 0x2513, 0x3513, 0x1D13, 0x2D13,
       0x3D13]
      [⟨9, 2⟩, ⟨10, 3⟩, ⟨11, 4⟩, ⟨14, 5⟩, ⟨10, 3⟩, ⟨10, 3⟩, ⟨10, 3⟩, ⟨11, 4⟩, ⟨11, 4⟩, ⟨11, 4⟩, ⟨14, 5⟩,
       ⟨14, 5⟩, ⟨14, 5⟩] ∧
  SpelledTwo .f13 .jnc
      [0x0314, 0x0114, 0x0514, 0x0D14, 0x1114, 0x2114, 0x3114, 0x1514, 0x2514, 0x3514, 0x1D14, 0x2D14,
       0x3D14]
      [⟨9, 2⟩, ⟨10, 3⟩, ⟨11, 4⟩, ⟨14, 5⟩, ⟨10, 3⟩, ⟨10, 3⟩, ⟨10, 3⟩, ⟨11, 4⟩, ⟨11, 4⟩, ⟨11, 4⟩, ⟨14, 5⟩,
       ⟨14, 5⟩, ⟨14, 5⟩] ∧
  SpelledTwo .f13 .jov
      [0x0315, 0x0115, 0x0515, 0x0D15, 0x1115, 0x2115, 0x3115, 0x1515, 0x2515, 0x3515, 0x1D15, 0x2D15,
       0x3D15]
      [⟨9, 2⟩, ⟨10, 3⟩, ⟨11, 4⟩, ⟨14, 5⟩, ⟨10, 3⟩, ⟨10, 3⟩, ⟨10, 3⟩, ⟨11, 4⟩, ⟨11, 4⟩, ⟨11, 4⟩, ⟨14, 5⟩,
       ⟨14, 5⟩, ⟨14, 5⟩] ∧
  SpelledTwo .f13 .jnv
      [0x0316, 0x0116, 0x0516, 0x0D16, 0x1116, 0x2116, 0x3116, 0x1516, 0x2516, 0x3516, 0x1D16, 0x2D16,
       0x3D16]
      [⟨9, 2⟩, ⟨10, 3⟩, ⟨11, 4⟩, ⟨14, 5⟩, ⟨10, 3⟩, ⟨10, 3⟩, ⟨10, 3⟩, ⟨11, 4⟩, ⟨11, 4⟩, ⟨11, 4⟩, ⟨14, 5⟩,
       ⟨14, 5⟩, ⟨14, 5⟩]

/-- R189: CSR goes to the datum LDA loads in the same form and pushes the address of the next instruction,
after the target is read and before the post-increment is committed. The indexed forms are undefined words.
Rests on the spec's own decisions D2, D3, D9, D12, D13, D16, D32. -/
def Obligations.CsrPushesTheReturnAddress : Prop :=
  (∀ (s : State) (f : Form) (m : Word), FormSet.f4.admits f = true → ∃ t mid mem,
    exec (.lda f m) s = .next t ∧
    exec (.csr f m) s = .next { s with
      sp := s.spAfterPush, mem := mem, draws := t.draws, pc := t.ac } ∧
    WordStored s.params s.mem mid s.pushSlot (s.pc + 2) ∧ PostIncDone s f m mid mem) ∧
  (∀ (s : State) (f : Form) (m : Word), FormSet.f4.admits f = false →
    exec (.csr f m) s = .fault (.undefinedOpcode (Instr.csr f m).opcodeWord s)) ∧
  SpelledTwo .f4 .csr
      [0x0317, 0x0117, 0x0517, 0x0D17]
      [⟨9, 3⟩, ⟨10, 4⟩, ⟨11, 5⟩, ⟨14, 6⟩]

/-- R142, R189: RTN resumes straight after the call and restores SP, in every stack discipline, when the
subroutine has left SP and the pushed word as it found them. Rests on the spec's own decisions D2, D3. -/
def Obligations.RtnUndoesCsr : Prop :=
  ∀ (s t h : State) (f : Form) (m : Word), f = .immediate ∨ f = .direct ∨ f = .indirect →
    kindAt s.params s.pushSlot = .ram → exec (.csr f m) s = .next t →
    h.params = t.params → h.sp = t.sp → h.mem.word s.pushSlot = t.mem.word s.pushSlot →
    exec .rtn h = .next { h with sp := s.sp, pc := s.pc + 2 }

/-! Input and output (48). -/

/-- R194, R195: INP puts in AC the word the device at port `ea` answers and records the read; memory changes
by the post-increment only. Rests on the spec's own decisions D9, D12, D16, D25, D33. -/
def Obligations.InpReadsThePort : Prop :=
  (∀ (f : Form) (m : Word) (s : State), f ≠ .immediate → ∃ ea v mem n,
    (resolve f m s).1.ea = some ea ∧
    exec (.inp f m) s = .next { s with
      ac := v, mem := mem, ioLog := s.ioLog ++ [.read ea v], portScript := s.portScript.tail,
      draws := n, pc := s.pc + 2 } ∧
    PostIncDone s f m s.mem mem ∧ ∀ a l, s.portScript = a :: l → v = a) ∧
  (∀ (m : Word) (s : State), exec (.inp .immediate m) s = .fault (.undefinedOpcode 0x0318 s)) ∧
  SpelledTwo .f12 .inp
      [0x0118, 0x0518, 0x0D18, 0x1118, 0x2118, 0x3118, 0x1518, 0x2518, 0x3518, 0x1D18, 0x2D18, 0x3D18]
      [⟨7, 3⟩, ⟨8, 4⟩, ⟨11, 5⟩, ⟨7, 3⟩, ⟨7, 3⟩, ⟨7, 3⟩, ⟨8, 4⟩, ⟨8, 4⟩, ⟨8, 4⟩, ⟨11, 5⟩, ⟨11, 5⟩, ⟨11, 5⟩]

/-- R194, R196: OUT records the write of the whole of AC to port `ea`; memory changes by the post-increment
only. Rests on the spec's own decisions D9, D12, D16, D25, D33. -/
def Obligations.OutWritesThePort : Prop :=
  (∀ (f : Form) (m : Word) (s : State), f ≠ .immediate → ∃ ea mem n,
    (resolve f m s).1.ea = some ea ∧
    exec (.out f m) s = .next { s with
      mem := mem, ioLog := s.ioLog ++ [.write ea s.ac], draws := n, pc := s.pc + 2 } ∧
    PostIncDone s f m s.mem mem) ∧
  (∀ (m : Word) (s : State), exec (.out .immediate m) s = .fault (.undefinedOpcode 0x0319 s)) ∧
  SpelledTwo .f12 .out
      [0x0119, 0x0519, 0x0D19, 0x1119, 0x2119, 0x3119, 0x1519, 0x2519, 0x3519, 0x1D19, 0x2D19, 0x3D19]
      [⟨7, 3⟩, ⟨8, 4⟩, ⟨11, 5⟩, ⟨7, 3⟩, ⟨7, 3⟩, ⟨7, 3⟩, ⟨8, 4⟩, ⟨8, 4⟩, ⟨8, 4⟩, ⟨11, 5⟩, ⟨11, 5⟩, ⟨11, 5⟩]

/-- R37: exactly one event for each INP and OUT that runs, and none for any other instruction. Rests on the
spec's own decision D25. -/
def Obligations.OneEventPerInputOrOutput : Prop :=
  ∀ (i : Instr) (s t : State), exec i s = .next t →
    ((∃ f m, i = .inp f m) → ∃ port v, t.ioLog = s.ioLog ++ [.read port v] ∧ t.ac = v) ∧
    ((∃ f m, i = .out f m) → ∃ port, t.ioLog = s.ioLog ++ [.write port s.ac]) ∧
    ((∀ f m, i ≠ .inp f m) → (∀ f m, i ≠ .out f m) → t.ioLog = s.ioLog)

/-! The step (30_encoding.md R58, 60_exceptions.md). -/

/-- R58: when no interrupt is taken, a step runs the instruction that the words at PC decode to, in the
state left by looking at irq (one level taken from the environment, or a draw). The operand word is fetched
only for a two-word instruction. Rests on the spec's own decisions D15, D19. -/
def Obligations.StepRunsTheDecodedInstruction : Prop :=
  ∀ (s : State) (i : Instr) (rest : List Word), Fetches s → Readable s s.pc →
    (i.operand ≠ none → Readable s (s.pc + 1)) →
    decode [s.mem.word s.pc, s.mem.word (s.pc + 1)] = .ok (i, rest) →
    step s = exec i s.sampleIrq.2 ∧
    ∃ n, s.sampleIrq.2 = { s with irqScript := s.irqScript.tail, draws := n }

/-- R56, R202: a fetched word that is not one of the 402 is a fault that leaves every register and memory as
they were and takes no trap; a fetch of a word that nothing has loaded, be it the opcode word or the operand
word of a two-word instruction, faults under its own name (the model's choice that U5 of
93_implementation_defined.md recommends; log entry 7). Rests on the spec's own decisions D15, D30. -/
def Obligations.UndefinedFetchFaults : Prop :=
  ∀ s : State, Fetches s →
    (Readable s s.pc → opcodeLength (s.mem.word s.pc) = none →
      ∃ n, step s = .fault (.undefinedOpcode (s.mem.word s.pc)
        { s with irqScript := s.irqScript.tail, draws := n })) ∧
    (kindAt s.params s.pc ≠ .absent → s.mem.loaded s.pc = false →
      ∃ n, step s = .fault (.unloadedFetch s.pc { s with irqScript := s.irqScript.tail, draws := n })) ∧
    (Readable s s.pc → opcodeLength (s.mem.word s.pc) = some 2 →
      kindAt s.params (s.pc + 1) ≠ .absent → s.mem.loaded (s.pc + 1) = false →
      ∃ n, step s = .fault (.unloadedFetch (s.pc + 1)
        { s with irqScript := s.irqScript.tail, draws := n }))

/-- R207, R208, R210: with HALT = 0, IE = 1 and irq = 1 the step is the interrupt entry with PC as the
return address, whatever word is at PC; nothing is fetched. Rests on the spec's own decisions D17, D19. -/
def Obligations.InterruptIsTakenAtTheBoundary : Prop :=
  ∀ s : State, TakesInterrupt s →
    step s = .next (s.sampleIrq.2.trapEnter s.pc s.params.irqAddress) ∧
    ∃ n, s.sampleIrq.2 = { s with irqScript := s.irqScript.tail, draws := n }

/-- R140, R143, R208: ENI and RTI act at once: a request present at the boundary after them is taken before
the next instruction. R141: after DII none is. Rests on the spec's own decisions D19, D21. -/
def Obligations.EnablesActAtOnce : Prop :=
  ∀ (i : Instr) (s t : State) (l : List Bool), acceptedParams s.params = true → s.halt = false →
    s.irqScript = true :: l → exec i s = .next t →
    (i = .eni ∨ i = .rti →
      step t = .next (({ t with irqScript := l } : State).trapEnter t.pc s.params.irqAddress)) ∧
    (i = .dii → ∀ j rest, Readable t t.pc → (j.operand ≠ none → Readable t (t.pc + 1)) →
      decode [t.mem.word t.pc, t.mem.word (t.pc + 1)] = .ok (j, rest) →
      step t = exec j { t with irqScript := l })

namespace Sys2Proof.Claims

/-- R170 to R172, U3, U5 for one counting instruction, in a listed form: it completes unless the count reaches
zero and the word at PC + 2, which its skip reads with the counting done, has no length or is one that nothing
has loaded. -/
def StopsOnlyInItsSkip (mk : Form → Word → Instr) (count : Word → Word) : Prop :=
  ∀ (f : Form) (m : Word) (s : State), FormSet.f11.admits f = true → ∃ ea old,
    (resolve f m s).1.ea = some ea ∧ old = ((resolve f m s).2.readWord ea).1 ∧
    ((∃ t, exec (mk f m) s = .next t ∧ t.params = s.params) ∨
     (count old = 0 ∧ ∃ w left, exec (mk f m) s = .fault (.undefinedOpcode w left) ∧
        opcodeLength w = none ∧
        (kindAt s.params (s.pc + 2) ≠ .absent → w = left.mem.word (s.pc + 2))) ∨
     (count old = 0 ∧ ∃ left, exec (mk f m) s = .fault (.unloadedFetch (s.pc + 2) left) ∧
        kindAt s.params (s.pc + 2) ≠ .absent ∧ left.mem.loaded (s.pc + 2) = false))

end Sys2Proof.Claims

/-- R201: no instruction but ISZ and DSZ can stop the machine: every other well-formed instruction completes
in every state, and ISZ and DSZ complete unless they skip and the word to skip is of unknown length (a word
nothing has loaded being the model's choice that U5 recommends; log entry 7). Rests on the spec's own
decisions D14, D15, D30. -/
def Obligations.EveryInstructionCompletesButForSkips : Prop :=
  (∀ (i : Instr) (s : State), i.wf = true → acceptedParams s.params = true →
    (∀ f m, i ≠ .isz f m) → (∀ f m, i ≠ .dsz f m) →
    ∃ t, exec i s = .next t ∧ t.params = s.params) ∧
  StopsOnlyInItsSkip .isz (fun w => w + 1) ∧ StopsOnlyInItsSkip .dsz (fun w => w - 1)

/-! Whole-machine rules. -/

/-- R10, R11, R12, R25: a register is written only by the instructions listed for it (and by RTI where the
trap frame names it). Rests on the spec's own decisions D9, D17, D18. -/
def Obligations.RegistersAreWrittenOnlyByTheirWriters : Prop :=
  ∀ (i : Instr) (s t : State), exec i s = .next t →
    (writesAc s.params i = false → t.ac = s.ac) ∧ (writesIx s.params i = false → t.ix = s.ix) ∧
    (writesIy s.params i = false → t.iy = s.iy) ∧ (writesSp i = false → t.sp = s.sp)

/-- R14, R15, R25: a flag is written only by the instructions listed for it, under every value of the flag
parameters. Rests on the spec's own decisions D4, D6, D7, D8, D9, D10, D18. -/
def Obligations.FlagsAreWrittenOnlyByTheirWriters : Prop :=
  ∀ (i : Instr) (s t : State), exec i s = .next t →
    (writesCf s.params i = false → t.cf = s.cf) ∧ (writesOvf s.params i = false → t.ovf = s.ovf)

/-- R17, R18: IE is set by ENI and RTI, cleared by DII and BRK and left alone by every other instruction;
HALT is set by HLT and left alone by every other. Rests on the spec's own decisions D17, D18, D21, D22. -/
def Obligations.ControlBitsAreWrittenOnlyByTheirWriters : Prop :=
  ∀ (i : Instr) (s t : State), exec i s = .next t →
    t.ie = (if i = .eni ∨ i = .rti then true else if i = .dii ∨ i = .brk then false else s.ie) ∧
    t.halt = (if i = .hlt then true else s.halt)

/-- R21, R25, R36: memory is written only by stores, pushes, ISZ, DSZ and post-increment forms, and no step
ever changes a word that the memory map does not make `ram`. Rests on the spec's own decisions D9, D24. -/
def Obligations.MemoryIsWrittenOnlyByItsWriters : Prop :=
  (∀ (i : Instr) (s t : State), exec i s = .next t → writesMem i = false → t.mem = s.mem) ∧
  ∀ (s t : State) (b : Word), step s = .next t → kindAt s.params b ≠ .ram → t.mem.word b = s.mem.word b

/-- The invariant every step keeps: memory stays in canonical form and in whole words (R33), and the
parameters stay ones the spec accepts. Rests on the spec's own decision D24. -/
def Obligations.StepKeepsTheInvariant : Prop :=
  ∀ s t : State, Inv s → step s = .next t → Inv t ∧ t.params = s.params

/-- R230: reset sets PC to `RESET_PC` and clears IE and HALT, for every parameter value. Rests on the spec's
own decision D23. -/
def Obligations.ResetSetsPcIeHalt : Prop :=
  (∀ p : Params, (State.resetWith p).pc = p.resetPc ∧ (State.resetWith p).ie = false ∧
    (State.resetWith p).halt = false) ∧
  State.reset.pc = 0x0000 ∧ State.reset.params = Params.defaults

/-- The invariant holds at reset, for all parameters the spec accepts; the defaults are such. Rests on the
spec's own decisions D23, D30. -/
def Obligations.InvariantHoldsAtReset : Prop :=
  Inv State.reset ∧ ∀ p : Params, acceptedParams p = true → Inv (State.resetWith p)

/-- R240: `time(N, E)` is the N - E standard cycles at 250 ns and the E extended ones at 500 ns, that is
`(N + E) * 250 ns` whenever the extended cycles are among the N; SET takes 1750 ns, the source's example. -/
def Obligations.CycleTimes : Prop :=
  (∀ c : Cost, c.timeNs = (c.cycles - c.extended) * 250 + c.extended * 500 ∧
    (c.extended ≤ c.cycles → c.timeNs = (c.cycles + c.extended) * 250)) ∧
  instrCost .set = some ⟨6, 1⟩ ∧ (instrCost .set).map Cost.timeNs = some 1750

/-- R242: the printed cycle counts, column by column and form by form; an instruction passed over after ISZ
or DSZ adds 4 (1), and no other step costs more or less than its instruction's count. -/
def Obligations.CycleCountsAsPrinted : Prop :=
  (∀ i : Instr, i ∈ [.eni, .dii, .hlt] → instrCost i = some ⟨5, 1⟩) ∧
  (∀ i : Instr, i ∈ [.com, .neg, .set, .clr, .shl, .lsr, .asr, .rol, .ror, .lsw, .scf, .ccf, .nop, .inx, .iny,
    .ins, .dex, .dey, .des, .max, .may, .mas, .mxa, .mya, .msa] → instrCost i = some ⟨6, 1⟩) ∧
  (∀ i : Instr, i ∈ [.poa, .pof, .pox, .poy, .rtn] → instrCost i = some ⟨6, 2⟩) ∧
  (∀ i : Instr, i ∈ [.inc, .dec, .psa, .psf, .psx, .psy] → instrCost i = some ⟨7, 2⟩) ∧
  instrCost .rti = some ⟨10, 4⟩ ∧ instrCost .bsl = some ⟨12, 1⟩ ∧ instrCost .bsr = some ⟨12, 1⟩ ∧
  instrCost .brk = some ⟨13, 4⟩ ∧ instrCost .bsw = some ⟨20, 1⟩ ∧
  (∀ mk : Form → Word → Instr, mk ∈ [.lda, .lds, .ldx, .ldy] → ∀ m,
    allForms.map (fun f => instrCost (mk f m)) =
      [some ⟨8, 2⟩, some ⟨8, 3⟩, some ⟨9, 4⟩, some ⟨12, 5⟩, some ⟨8, 3⟩, some ⟨8, 3⟩, some ⟨8, 3⟩, some ⟨9, 4⟩,
       some ⟨9, 4⟩, some ⟨9, 4⟩, some ⟨12, 5⟩, some ⟨12, 5⟩, some ⟨12, 5⟩]) ∧
  (∀ mk : Form → Word → Instr, mk ∈ [.sta, .sts, .stx, .sty, .inp, .out] → ∀ m,
    allForms.map (fun f => instrCost (mk f m)) =
      [none, some ⟨7, 3⟩, some ⟨8, 4⟩, some ⟨11, 5⟩, some ⟨7, 3⟩, some ⟨7, 3⟩, some ⟨7, 3⟩, some ⟨8, 4⟩,
       some ⟨8, 4⟩, some ⟨8, 4⟩, some ⟨11, 5⟩, some ⟨11, 5⟩, some ⟨11, 5⟩]) ∧
  (∀ mk : Form → Word → Instr, mk ∈ [.add, .adc, .sub, .sbc, .and, .ora, .xor, .jmp] → ∀ m,
    allForms.map (fun f => instrCost (mk f m)) =
      [some ⟨7, 2⟩, some ⟨8, 3⟩, some ⟨9, 4⟩, some ⟨12, 5⟩, some ⟨8, 3⟩, some ⟨8, 3⟩, some ⟨8, 3⟩, some ⟨9, 4⟩,
       some ⟨9, 4⟩, some ⟨9, 4⟩, some ⟨12, 5⟩, some ⟨12, 5⟩, some ⟨12, 5⟩]) ∧
  (∀ mk : Form → Word → Instr, mk ∈ [.joz, .jnz, .jpl, .jmi, .joc, .jnc, .jov, .jnv] → ∀ m,
    allForms.map (fun f => instrCost (mk f m)) =
      [some ⟨9, 2⟩, some ⟨10, 3⟩, some ⟨11, 4⟩, some ⟨14, 5⟩, some ⟨10, 3⟩, some ⟨10, 3⟩, some ⟨10, 3⟩,
       some ⟨11, 4⟩, some ⟨11, 4⟩, some ⟨11, 4⟩, some ⟨14, 5⟩, some ⟨14, 5⟩, some ⟨14, 5⟩]) ∧
  (∀ m, allForms.map (fun f => instrCost (.csr f m)) =
    [some ⟨9, 3⟩, some ⟨10, 4⟩, some ⟨11, 5⟩, some ⟨14, 6⟩] ++ List.replicate 9 none) ∧
  (∀ mk : Form → Word → Instr, mk ∈ [.isz, .dsz] → ∀ m,
    allForms.map (fun f => instrCost (mk f m)) =
      [none, some ⟨9, 4⟩, some ⟨10, 5⟩, none, some ⟨9, 4⟩, some ⟨9, 4⟩, some ⟨9, 4⟩, some ⟨10, 5⟩,
       some ⟨10, 5⟩, some ⟨10, 5⟩, some ⟨13, 5⟩, some ⟨13, 5⟩, some ⟨13, 5⟩]) ∧
  ∀ (s t u : State) (i : Instr), boundary s = .run i t → exec i t = .next u →
    ((∃ f m, i = .isz f m ∨ i = .dsz f m) → u.pc ≠ t.pc + 2 →
      stepCost s = (instrCost i).map (fun c => ⟨c.cycles + 4, c.extended + 1⟩)) ∧
    ((∀ f m, i ≠ .isz f m ∧ i ≠ .dsz f m) ∨ u.pc = t.pc + 2 → stepCost s = instrCost i)

/-- R241: the Extended count is the number of one-word accesses, for every instruction and form but those
the spec names. Rests on the spec's own decisions D17, D35. -/
def Obligations.ExtendedCountsTheAccesses : Prop :=
  ∀ i : Instr, i.wf = true → countUnexplained i = false →
    (instrCost i).map Cost.extended = some (instrAccesses i)
end

