-- ==== Sys2Proof/Laws/Memory.lean ====
section
/-! SUPPORT. Laws of the memory cells: read after write, and the canonical form. -/

namespace Sys2Proof.Machine

/-! Cells. -/

@[simp] theorem Memory.lookup_nil (k : Nat) : Memory.lookup [] k = none := rfl

theorem Memory.lookup_insert (m : Memory) (a k : Nat) (v : Byte) :
    (m.insert a v).lookup k = if a = k then some v else m.lookup k := by
  induction m with
  | nil => simp [Memory.insert, Memory.lookup]
  | cons c rest ih =>
    obtain ⟨j, w⟩ := c
    unfold Memory.insert
    split
    · simp [Memory.lookup]
    · split
      · rename_i h; subst h
        simp only [Memory.lookup]
        split <;> rfl
      · rename_i h
        simp only [Memory.lookup, ih]
        split
        · subst_vars; simp [h]
        · rfl

@[simp] theorem Memory.lookup_insert_same (m : Memory) (a : Nat) (v : Byte) :
    (m.insert a v).lookup a = some v := by simp [Memory.lookup_insert]

theorem Memory.lookup_insert_other (m : Memory) {a k : Nat} (v : Byte) (h : k ≠ a) :
    (m.insert a v).lookup k = m.lookup k := by
  simp [Memory.lookup_insert, Ne.symm h]

/-! The canonical form. -/

theorem Memory.rising_weaken {m : Memory} {low low' : Nat} (h : low' ≤ low)
    (hm : m.rising low = true) : m.rising low' = true := by
  cases m with
  | nil => rfl
  | cons c rest =>
    obtain ⟨k, v⟩ := c
    simp only [Memory.rising, Bool.and_eq_true, decide_eq_true_eq] at hm ⊢
    exact ⟨⟨h.trans hm.1.1, hm.1.2⟩, hm.2⟩

theorem Memory.rising_insert {m : Memory} {low a : Nat} (v : Byte) (hlow : low ≤ a)
    (ha : a < Memory.size) (hm : m.rising low = true) : (m.insert a v).rising low = true := by
  induction m generalizing low with
  | nil => simp [Memory.insert, Memory.rising, hlow, ha]
  | cons c rest ih =>
    obtain ⟨k, w⟩ := c
    simp only [Memory.rising, Bool.and_eq_true, decide_eq_true_eq] at hm
    unfold Memory.insert
    split
    · rename_i h
      simp only [Memory.rising, Bool.and_eq_true, decide_eq_true_eq]
      exact ⟨⟨hlow, ha⟩, ⟨h, hm.1.2⟩, hm.2⟩
    · split
      · rename_i h; subst h
        simp only [Memory.rising, Bool.and_eq_true, decide_eq_true_eq]
        exact hm
      · simp only [Memory.rising, Bool.and_eq_true, decide_eq_true_eq]
        exact ⟨hm.1, ih (by omega) hm.2⟩

theorem Memory.wf_insert {m : Memory} {a : Nat} (v : Byte) (ha : a < Memory.size)
    (hm : m.wf = true) : (m.insert a v).wf = true :=
  Memory.rising_insert v (Nat.zero_le a) ha hm

theorem lowKey_lt_size (a : Word) : lowKey a < Memory.size := by
  have := a.isLt
  simp only [lowKey, Memory.size]
  omega

theorem highKey_lt_size (a : Word) : highKey a < Memory.size := by
  have := a.isLt
  simp only [highKey, Memory.size]
  omega

theorem Memory.wf_putWord {m : Memory} (a v : Word) (hm : m.wf = true) : (m.putWord a v).wf = true :=
  Memory.wf_insert _ (highKey_lt_size a) (Memory.wf_insert _ (lowKey_lt_size a) hm)

theorem Memory.wf_nil : Memory.wf [] = true := rfl

/-- Two memories in canonical form with the same cells are the same list. -/
theorem Memory.lookup_below {m : Memory} {low k : Nat} (hm : m.rising low = true) (hk : k < low) :
    m.lookup k = none := by
  induction m generalizing low with
  | nil => rfl
  | cons c rest ih =>
    obtain ⟨j, w⟩ := c
    simp only [Memory.rising, Bool.and_eq_true, decide_eq_true_eq] at hm
    have hj : j ≠ k := by omega
    simp only [Memory.lookup, hj, if_false]
    exact ih hm.2 (by omega)

theorem Memory.rising_ext {m n : Memory} {low : Nat} (hm : m.rising low = true)
    (hn : n.rising low = true) (h : ∀ k, m.lookup k = n.lookup k) : m = n := by
  induction m generalizing n low with
  | nil =>
    cases n with
    | nil => rfl
    | cons c rest =>
      obtain ⟨k, v⟩ := c
      have := h k
      simp [Memory.lookup] at this
  | cons c rest ih =>
    obtain ⟨k, v⟩ := c
    cases n with
    | nil =>
      have := h k
      simp [Memory.lookup] at this
    | cons d rest' =>
      obtain ⟨j, w⟩ := d
      simp only [Memory.rising, Bool.and_eq_true, decide_eq_true_eq] at hm hn
      have hkj : k = j := by
        rcases Nat.lt_trichotomy k j with hlt | heq | hgt
        · have h1 := h k
          have h2 := Memory.lookup_below (m := rest') (k := k) hn.2 (by omega)
          simp [Memory.lookup, (Nat.ne_of_lt hlt).symm, h2] at h1
        · exact heq
        · have h1 := h j
          have h2 := Memory.lookup_below (m := rest) (k := j) hm.2 (by omega)
          simp [Memory.lookup, (Nat.ne_of_lt hgt).symm, h2] at h1
      subst hkj
      have hvw : v = w := by have := h k; simpa [Memory.lookup] using this
      subst hvw
      have hrest : rest = rest' := by
        refine ih hm.2 hn.2 fun i => ?_
        by_cases hi : k = i
        · subst hi
          rw [Memory.lookup_below hm.2 (by omega), Memory.lookup_below hn.2 (by omega)]
        · have := h i
          simpa [Memory.lookup, hi] using this
      rw [hrest]

/-- Equal memories are equal data: canonical lists with the same cells are equal. -/
theorem Memory.wf_ext {m n : Memory} (hm : m.wf = true) (hn : n.wf = true)
    (h : ∀ k, m.lookup k = n.lookup k) : m = n :=
  Memory.rising_ext hm hn h

/-! Words. -/

theorem lowKey_inj {a b : Word} : lowKey a = lowKey b ↔ a = b := by
  constructor
  · intro h; exact BitVec.eq_of_toNat_eq (by simp only [lowKey] at h; omega)
  · rintro rfl; rfl

theorem highKey_inj {a b : Word} : highKey a = highKey b ↔ a = b := by
  constructor
  · intro h; exact BitVec.eq_of_toNat_eq (by simp only [highKey] at h; omega)
  · rintro rfl; rfl

theorem lowKey_ne_highKey (a b : Word) : lowKey a ≠ highKey b := by
  simp only [lowKey, highKey]; omega

theorem Memory.lookup_putWord (m : Memory) (a v : Word) (k : Nat) :
    (m.putWord a v).lookup k =
      if highKey a = k then some (modeByte v) else if lowKey a = k then some (opByte v) else m.lookup k := by
  simp [Memory.putWord, Memory.lookup_insert]

@[simp] theorem Memory.lookup_putWord_low (m : Memory) (a v : Word) :
    (m.putWord a v).lookup (lowKey a) = some (opByte v) := by
  simp [Memory.lookup_putWord, (lowKey_ne_highKey a a).symm]

@[simp] theorem Memory.lookup_putWord_high (m : Memory) (a v : Word) :
    (m.putWord a v).lookup (highKey a) = some (modeByte v) := by
  simp [Memory.lookup_putWord]

theorem Memory.lookup_putWord_other (m : Memory) {a : Word} (v : Word) {k : Nat} (hl : k ≠ lowKey a)
    (hh : k ≠ highKey a) : (m.putWord a v).lookup k = m.lookup k := by
  simp [Memory.lookup_putWord, Ne.symm hl, Ne.symm hh]

/-- A word is its two bytes. -/
@[simp] theorem modeByte_append_opByte (v : Word) : modeByte v ++ opByte v = v := by
  apply BitVec.eq_of_getLsbD_eq
  intro i hi
  simp only [modeByte, opByte, BitVec.getLsbD_append, BitVec.getLsbD_extractLsb']
  by_cases h : i < 8
  · simp [h]
  · have : i - 8 < 8 := by omega
    simp [h, this, show 8 + (i - 8) = i by omega]

/-- Two memories that list the same cells of a word hold the same word. -/
theorem Memory.word_congr {m n : Memory} {a : Word} (hl : m.lookup (lowKey a) = n.lookup (lowKey a))
    (hh : m.lookup (highKey a) = n.lookup (highKey a)) : m.word a = n.word a := by
  simp [Memory.word, Memory.cell, hl, hh]

/-- Listed cells are the word. -/
theorem Memory.word_of_lookup {m : Memory} {a v : Word} (hl : m.lookup (lowKey a) = some (opByte v))
    (hh : m.lookup (highKey a) = some (modeByte v)) : m.word a = v := by
  simp [Memory.word, Memory.cell, hl, hh]

/-- R36: a read returns the most recent write. -/
@[simp] theorem Memory.word_putWord_same (m : Memory) (a v : Word) : (m.putWord a v).word a = v :=
  Memory.word_of_lookup (by simp) (by simp)

/-- A write leaves every other word alone. -/
theorem Memory.word_putWord_other (m : Memory) {a b : Word} (v : Word) (h : b ≠ a) :
    (m.putWord a v).word b = m.word b :=
  Memory.word_congr
    (Memory.lookup_putWord_other m v (by simpa [lowKey_inj] using h) (lowKey_ne_highKey b a))
    (Memory.lookup_putWord_other m v (lowKey_ne_highKey a b).symm (by simpa [highKey_inj] using h))

@[simp] theorem Memory.loaded_putWord_same (m : Memory) (a v : Word) : (m.putWord a v).loaded a = true := by
  simp [Memory.loaded]

/-- A word once loaded stays loaded. -/
theorem Memory.loaded_putWord (m : Memory) (a v : Word) {b : Word} (h : m.loaded b = true) :
    (m.putWord a v).loaded b = true := by
  simp only [Memory.loaded, Bool.and_eq_true] at h ⊢
  simp only [Memory.lookup_putWord]
  constructor <;> (split <;> try split) <;> simp [h.1, h.2]

theorem Memory.whole_nil : Memory.whole [] := fun _ => rfl

theorem Memory.whole_putWord {m : Memory} (a v : Word) (h : m.whole) : (m.putWord a v).whole := by
  intro b
  by_cases hb : b = a
  · subst hb; simp
  · rw [Memory.lookup_putWord_other m v (by simpa [lowKey_inj] using hb) (lowKey_ne_highKey b a),
      Memory.lookup_putWord_other m v (lowKey_ne_highKey a b).symm (by simpa [highKey_inj] using hb)]
    exact h b

end Sys2Proof.Machine
end

