-- ==== Sys2Proof/Laws/State.lean ====
section
/-! SUPPORT. What each field reads after each update of State: one lemma per field per update. -/

namespace Sys2Proof.Machine

variable (s : State)

@[simp] theorem State.ac_setAc (v : Word) : (s.setAc v).ac = v := rfl
@[simp] theorem State.ix_setAc (v : Word) : (s.setAc v).ix = s.ix := rfl
@[simp] theorem State.iy_setAc (v : Word) : (s.setAc v).iy = s.iy := rfl
@[simp] theorem State.sp_setAc (v : Word) : (s.setAc v).sp = s.sp := rfl
@[simp] theorem State.pc_setAc (v : Word) : (s.setAc v).pc = s.pc := rfl
@[simp] theorem State.cf_setAc (v : Word) : (s.setAc v).cf = s.cf := rfl
@[simp] theorem State.ovf_setAc (v : Word) : (s.setAc v).ovf = s.ovf := rfl
@[simp] theorem State.ie_setAc (v : Word) : (s.setAc v).ie = s.ie := rfl
@[simp] theorem State.halt_setAc (v : Word) : (s.setAc v).halt = s.halt := rfl
@[simp] theorem State.mem_setAc (v : Word) : (s.setAc v).mem = s.mem := rfl
@[simp] theorem State.ioLog_setAc (v : Word) : (s.setAc v).ioLog = s.ioLog := rfl
@[simp] theorem State.switchScript_setAc (v : Word) : (s.setAc v).switchScript = s.switchScript := rfl
@[simp] theorem State.portScript_setAc (v : Word) : (s.setAc v).portScript = s.portScript := rfl
@[simp] theorem State.irqScript_setAc (v : Word) : (s.setAc v).irqScript = s.irqScript := rfl
@[simp] theorem State.draws_setAc (v : Word) : (s.setAc v).draws = s.draws := rfl
@[simp] theorem State.params_setAc (v : Word) : (s.setAc v).params = s.params := rfl

@[simp] theorem State.ac_setIx (v : Word) : (s.setIx v).ac = s.ac := rfl
@[simp] theorem State.ix_setIx (v : Word) : (s.setIx v).ix = v := rfl
@[simp] theorem State.iy_setIx (v : Word) : (s.setIx v).iy = s.iy := rfl
@[simp] theorem State.sp_setIx (v : Word) : (s.setIx v).sp = s.sp := rfl
@[simp] theorem State.pc_setIx (v : Word) : (s.setIx v).pc = s.pc := rfl
@[simp] theorem State.cf_setIx (v : Word) : (s.setIx v).cf = s.cf := rfl
@[simp] theorem State.ovf_setIx (v : Word) : (s.setIx v).ovf = s.ovf := rfl
@[simp] theorem State.ie_setIx (v : Word) : (s.setIx v).ie = s.ie := rfl
@[simp] theorem State.halt_setIx (v : Word) : (s.setIx v).halt = s.halt := rfl
@[simp] theorem State.mem_setIx (v : Word) : (s.setIx v).mem = s.mem := rfl
@[simp] theorem State.ioLog_setIx (v : Word) : (s.setIx v).ioLog = s.ioLog := rfl
@[simp] theorem State.switchScript_setIx (v : Word) : (s.setIx v).switchScript = s.switchScript := rfl
@[simp] theorem State.portScript_setIx (v : Word) : (s.setIx v).portScript = s.portScript := rfl
@[simp] theorem State.irqScript_setIx (v : Word) : (s.setIx v).irqScript = s.irqScript := rfl
@[simp] theorem State.draws_setIx (v : Word) : (s.setIx v).draws = s.draws := rfl
@[simp] theorem State.params_setIx (v : Word) : (s.setIx v).params = s.params := rfl

@[simp] theorem State.ac_setIy (v : Word) : (s.setIy v).ac = s.ac := rfl
@[simp] theorem State.ix_setIy (v : Word) : (s.setIy v).ix = s.ix := rfl
@[simp] theorem State.iy_setIy (v : Word) : (s.setIy v).iy = v := rfl
@[simp] theorem State.sp_setIy (v : Word) : (s.setIy v).sp = s.sp := rfl
@[simp] theorem State.pc_setIy (v : Word) : (s.setIy v).pc = s.pc := rfl
@[simp] theorem State.cf_setIy (v : Word) : (s.setIy v).cf = s.cf := rfl
@[simp] theorem State.ovf_setIy (v : Word) : (s.setIy v).ovf = s.ovf := rfl
@[simp] theorem State.ie_setIy (v : Word) : (s.setIy v).ie = s.ie := rfl
@[simp] theorem State.halt_setIy (v : Word) : (s.setIy v).halt = s.halt := rfl
@[simp] theorem State.mem_setIy (v : Word) : (s.setIy v).mem = s.mem := rfl
@[simp] theorem State.ioLog_setIy (v : Word) : (s.setIy v).ioLog = s.ioLog := rfl
@[simp] theorem State.switchScript_setIy (v : Word) : (s.setIy v).switchScript = s.switchScript := rfl
@[simp] theorem State.portScript_setIy (v : Word) : (s.setIy v).portScript = s.portScript := rfl
@[simp] theorem State.irqScript_setIy (v : Word) : (s.setIy v).irqScript = s.irqScript := rfl
@[simp] theorem State.draws_setIy (v : Word) : (s.setIy v).draws = s.draws := rfl
@[simp] theorem State.params_setIy (v : Word) : (s.setIy v).params = s.params := rfl

@[simp] theorem State.ac_setSp (v : Word) : (s.setSp v).ac = s.ac := rfl
@[simp] theorem State.ix_setSp (v : Word) : (s.setSp v).ix = s.ix := rfl
@[simp] theorem State.iy_setSp (v : Word) : (s.setSp v).iy = s.iy := rfl
@[simp] theorem State.sp_setSp (v : Word) : (s.setSp v).sp = v := rfl
@[simp] theorem State.pc_setSp (v : Word) : (s.setSp v).pc = s.pc := rfl
@[simp] theorem State.cf_setSp (v : Word) : (s.setSp v).cf = s.cf := rfl
@[simp] theorem State.ovf_setSp (v : Word) : (s.setSp v).ovf = s.ovf := rfl
@[simp] theorem State.ie_setSp (v : Word) : (s.setSp v).ie = s.ie := rfl
@[simp] theorem State.halt_setSp (v : Word) : (s.setSp v).halt = s.halt := rfl
@[simp] theorem State.mem_setSp (v : Word) : (s.setSp v).mem = s.mem := rfl
@[simp] theorem State.ioLog_setSp (v : Word) : (s.setSp v).ioLog = s.ioLog := rfl
@[simp] theorem State.switchScript_setSp (v : Word) : (s.setSp v).switchScript = s.switchScript := rfl
@[simp] theorem State.portScript_setSp (v : Word) : (s.setSp v).portScript = s.portScript := rfl
@[simp] theorem State.irqScript_setSp (v : Word) : (s.setSp v).irqScript = s.irqScript := rfl
@[simp] theorem State.draws_setSp (v : Word) : (s.setSp v).draws = s.draws := rfl
@[simp] theorem State.params_setSp (v : Word) : (s.setSp v).params = s.params := rfl

@[simp] theorem State.ac_setPc (v : Word) : (s.setPc v).ac = s.ac := rfl
@[simp] theorem State.ix_setPc (v : Word) : (s.setPc v).ix = s.ix := rfl
@[simp] theorem State.iy_setPc (v : Word) : (s.setPc v).iy = s.iy := rfl
@[simp] theorem State.sp_setPc (v : Word) : (s.setPc v).sp = s.sp := rfl
@[simp] theorem State.pc_setPc (v : Word) : (s.setPc v).pc = v := rfl
@[simp] theorem State.cf_setPc (v : Word) : (s.setPc v).cf = s.cf := rfl
@[simp] theorem State.ovf_setPc (v : Word) : (s.setPc v).ovf = s.ovf := rfl
@[simp] theorem State.ie_setPc (v : Word) : (s.setPc v).ie = s.ie := rfl
@[simp] theorem State.halt_setPc (v : Word) : (s.setPc v).halt = s.halt := rfl
@[simp] theorem State.mem_setPc (v : Word) : (s.setPc v).mem = s.mem := rfl
@[simp] theorem State.ioLog_setPc (v : Word) : (s.setPc v).ioLog = s.ioLog := rfl
@[simp] theorem State.switchScript_setPc (v : Word) : (s.setPc v).switchScript = s.switchScript := rfl
@[simp] theorem State.portScript_setPc (v : Word) : (s.setPc v).portScript = s.portScript := rfl
@[simp] theorem State.irqScript_setPc (v : Word) : (s.setPc v).irqScript = s.irqScript := rfl
@[simp] theorem State.draws_setPc (v : Word) : (s.setPc v).draws = s.draws := rfl
@[simp] theorem State.params_setPc (v : Word) : (s.setPc v).params = s.params := rfl

@[simp] theorem State.ac_setCf (v : Bool) : (s.setCf v).ac = s.ac := rfl
@[simp] theorem State.ix_setCf (v : Bool) : (s.setCf v).ix = s.ix := rfl
@[simp] theorem State.iy_setCf (v : Bool) : (s.setCf v).iy = s.iy := rfl
@[simp] theorem State.sp_setCf (v : Bool) : (s.setCf v).sp = s.sp := rfl
@[simp] theorem State.pc_setCf (v : Bool) : (s.setCf v).pc = s.pc := rfl
@[simp] theorem State.cf_setCf (v : Bool) : (s.setCf v).cf = v := rfl
@[simp] theorem State.ovf_setCf (v : Bool) : (s.setCf v).ovf = s.ovf := rfl
@[simp] theorem State.ie_setCf (v : Bool) : (s.setCf v).ie = s.ie := rfl
@[simp] theorem State.halt_setCf (v : Bool) : (s.setCf v).halt = s.halt := rfl
@[simp] theorem State.mem_setCf (v : Bool) : (s.setCf v).mem = s.mem := rfl
@[simp] theorem State.ioLog_setCf (v : Bool) : (s.setCf v).ioLog = s.ioLog := rfl
@[simp] theorem State.switchScript_setCf (v : Bool) : (s.setCf v).switchScript = s.switchScript := rfl
@[simp] theorem State.portScript_setCf (v : Bool) : (s.setCf v).portScript = s.portScript := rfl
@[simp] theorem State.irqScript_setCf (v : Bool) : (s.setCf v).irqScript = s.irqScript := rfl
@[simp] theorem State.draws_setCf (v : Bool) : (s.setCf v).draws = s.draws := rfl
@[simp] theorem State.params_setCf (v : Bool) : (s.setCf v).params = s.params := rfl

@[simp] theorem State.ac_setOvf (v : Bool) : (s.setOvf v).ac = s.ac := rfl
@[simp] theorem State.ix_setOvf (v : Bool) : (s.setOvf v).ix = s.ix := rfl
@[simp] theorem State.iy_setOvf (v : Bool) : (s.setOvf v).iy = s.iy := rfl
@[simp] theorem State.sp_setOvf (v : Bool) : (s.setOvf v).sp = s.sp := rfl
@[simp] theorem State.pc_setOvf (v : Bool) : (s.setOvf v).pc = s.pc := rfl
@[simp] theorem State.cf_setOvf (v : Bool) : (s.setOvf v).cf = s.cf := rfl
@[simp] theorem State.ovf_setOvf (v : Bool) : (s.setOvf v).ovf = v := rfl
@[simp] theorem State.ie_setOvf (v : Bool) : (s.setOvf v).ie = s.ie := rfl
@[simp] theorem State.halt_setOvf (v : Bool) : (s.setOvf v).halt = s.halt := rfl
@[simp] theorem State.mem_setOvf (v : Bool) : (s.setOvf v).mem = s.mem := rfl
@[simp] theorem State.ioLog_setOvf (v : Bool) : (s.setOvf v).ioLog = s.ioLog := rfl
@[simp] theorem State.switchScript_setOvf (v : Bool) : (s.setOvf v).switchScript = s.switchScript := rfl
@[simp] theorem State.portScript_setOvf (v : Bool) : (s.setOvf v).portScript = s.portScript := rfl
@[simp] theorem State.irqScript_setOvf (v : Bool) : (s.setOvf v).irqScript = s.irqScript := rfl
@[simp] theorem State.draws_setOvf (v : Bool) : (s.setOvf v).draws = s.draws := rfl
@[simp] theorem State.params_setOvf (v : Bool) : (s.setOvf v).params = s.params := rfl

@[simp] theorem State.ac_setIe (v : Bool) : (s.setIe v).ac = s.ac := rfl
@[simp] theorem State.ix_setIe (v : Bool) : (s.setIe v).ix = s.ix := rfl
@[simp] theorem State.iy_setIe (v : Bool) : (s.setIe v).iy = s.iy := rfl
@[simp] theorem State.sp_setIe (v : Bool) : (s.setIe v).sp = s.sp := rfl
@[simp] theorem State.pc_setIe (v : Bool) : (s.setIe v).pc = s.pc := rfl
@[simp] theorem State.cf_setIe (v : Bool) : (s.setIe v).cf = s.cf := rfl
@[simp] theorem State.ovf_setIe (v : Bool) : (s.setIe v).ovf = s.ovf := rfl
@[simp] theorem State.ie_setIe (v : Bool) : (s.setIe v).ie = v := rfl
@[simp] theorem State.halt_setIe (v : Bool) : (s.setIe v).halt = s.halt := rfl
@[simp] theorem State.mem_setIe (v : Bool) : (s.setIe v).mem = s.mem := rfl
@[simp] theorem State.ioLog_setIe (v : Bool) : (s.setIe v).ioLog = s.ioLog := rfl
@[simp] theorem State.switchScript_setIe (v : Bool) : (s.setIe v).switchScript = s.switchScript := rfl
@[simp] theorem State.portScript_setIe (v : Bool) : (s.setIe v).portScript = s.portScript := rfl
@[simp] theorem State.irqScript_setIe (v : Bool) : (s.setIe v).irqScript = s.irqScript := rfl
@[simp] theorem State.draws_setIe (v : Bool) : (s.setIe v).draws = s.draws := rfl
@[simp] theorem State.params_setIe (v : Bool) : (s.setIe v).params = s.params := rfl

@[simp] theorem State.ac_setHalt (v : Bool) : (s.setHalt v).ac = s.ac := rfl
@[simp] theorem State.ix_setHalt (v : Bool) : (s.setHalt v).ix = s.ix := rfl
@[simp] theorem State.iy_setHalt (v : Bool) : (s.setHalt v).iy = s.iy := rfl
@[simp] theorem State.sp_setHalt (v : Bool) : (s.setHalt v).sp = s.sp := rfl
@[simp] theorem State.pc_setHalt (v : Bool) : (s.setHalt v).pc = s.pc := rfl
@[simp] theorem State.cf_setHalt (v : Bool) : (s.setHalt v).cf = s.cf := rfl
@[simp] theorem State.ovf_setHalt (v : Bool) : (s.setHalt v).ovf = s.ovf := rfl
@[simp] theorem State.ie_setHalt (v : Bool) : (s.setHalt v).ie = s.ie := rfl
@[simp] theorem State.halt_setHalt (v : Bool) : (s.setHalt v).halt = v := rfl
@[simp] theorem State.mem_setHalt (v : Bool) : (s.setHalt v).mem = s.mem := rfl
@[simp] theorem State.ioLog_setHalt (v : Bool) : (s.setHalt v).ioLog = s.ioLog := rfl
@[simp] theorem State.switchScript_setHalt (v : Bool) : (s.setHalt v).switchScript = s.switchScript := rfl
@[simp] theorem State.portScript_setHalt (v : Bool) : (s.setHalt v).portScript = s.portScript := rfl
@[simp] theorem State.irqScript_setHalt (v : Bool) : (s.setHalt v).irqScript = s.irqScript := rfl
@[simp] theorem State.draws_setHalt (v : Bool) : (s.setHalt v).draws = s.draws := rfl
@[simp] theorem State.params_setHalt (v : Bool) : (s.setHalt v).params = s.params := rfl

@[simp] theorem State.ac_setMem (v : Memory) : (s.setMem v).ac = s.ac := rfl
@[simp] theorem State.ix_setMem (v : Memory) : (s.setMem v).ix = s.ix := rfl
@[simp] theorem State.iy_setMem (v : Memory) : (s.setMem v).iy = s.iy := rfl
@[simp] theorem State.sp_setMem (v : Memory) : (s.setMem v).sp = s.sp := rfl
@[simp] theorem State.pc_setMem (v : Memory) : (s.setMem v).pc = s.pc := rfl
@[simp] theorem State.cf_setMem (v : Memory) : (s.setMem v).cf = s.cf := rfl
@[simp] theorem State.ovf_setMem (v : Memory) : (s.setMem v).ovf = s.ovf := rfl
@[simp] theorem State.ie_setMem (v : Memory) : (s.setMem v).ie = s.ie := rfl
@[simp] theorem State.halt_setMem (v : Memory) : (s.setMem v).halt = s.halt := rfl
@[simp] theorem State.mem_setMem (v : Memory) : (s.setMem v).mem = v := rfl
@[simp] theorem State.ioLog_setMem (v : Memory) : (s.setMem v).ioLog = s.ioLog := rfl
@[simp] theorem State.switchScript_setMem (v : Memory) : (s.setMem v).switchScript = s.switchScript := rfl
@[simp] theorem State.portScript_setMem (v : Memory) : (s.setMem v).portScript = s.portScript := rfl
@[simp] theorem State.irqScript_setMem (v : Memory) : (s.setMem v).irqScript = s.irqScript := rfl
@[simp] theorem State.draws_setMem (v : Memory) : (s.setMem v).draws = s.draws := rfl
@[simp] theorem State.params_setMem (v : Memory) : (s.setMem v).params = s.params := rfl

@[simp] theorem State.ac_setIoLog (v : List IoEvent) : (s.setIoLog v).ac = s.ac := rfl
@[simp] theorem State.ix_setIoLog (v : List IoEvent) : (s.setIoLog v).ix = s.ix := rfl
@[simp] theorem State.iy_setIoLog (v : List IoEvent) : (s.setIoLog v).iy = s.iy := rfl
@[simp] theorem State.sp_setIoLog (v : List IoEvent) : (s.setIoLog v).sp = s.sp := rfl
@[simp] theorem State.pc_setIoLog (v : List IoEvent) : (s.setIoLog v).pc = s.pc := rfl
@[simp] theorem State.cf_setIoLog (v : List IoEvent) : (s.setIoLog v).cf = s.cf := rfl
@[simp] theorem State.ovf_setIoLog (v : List IoEvent) : (s.setIoLog v).ovf = s.ovf := rfl
@[simp] theorem State.ie_setIoLog (v : List IoEvent) : (s.setIoLog v).ie = s.ie := rfl
@[simp] theorem State.halt_setIoLog (v : List IoEvent) : (s.setIoLog v).halt = s.halt := rfl
@[simp] theorem State.mem_setIoLog (v : List IoEvent) : (s.setIoLog v).mem = s.mem := rfl
@[simp] theorem State.ioLog_setIoLog (v : List IoEvent) : (s.setIoLog v).ioLog = v := rfl
@[simp] theorem State.switchScript_setIoLog (v : List IoEvent) : (s.setIoLog v).switchScript = s.switchScript := rfl
@[simp] theorem State.portScript_setIoLog (v : List IoEvent) : (s.setIoLog v).portScript = s.portScript := rfl
@[simp] theorem State.irqScript_setIoLog (v : List IoEvent) : (s.setIoLog v).irqScript = s.irqScript := rfl
@[simp] theorem State.draws_setIoLog (v : List IoEvent) : (s.setIoLog v).draws = s.draws := rfl
@[simp] theorem State.params_setIoLog (v : List IoEvent) : (s.setIoLog v).params = s.params := rfl

@[simp] theorem State.ac_setSwitchScript (v : List Word) : (s.setSwitchScript v).ac = s.ac := rfl
@[simp] theorem State.ix_setSwitchScript (v : List Word) : (s.setSwitchScript v).ix = s.ix := rfl
@[simp] theorem State.iy_setSwitchScript (v : List Word) : (s.setSwitchScript v).iy = s.iy := rfl
@[simp] theorem State.sp_setSwitchScript (v : List Word) : (s.setSwitchScript v).sp = s.sp := rfl
@[simp] theorem State.pc_setSwitchScript (v : List Word) : (s.setSwitchScript v).pc = s.pc := rfl
@[simp] theorem State.cf_setSwitchScript (v : List Word) : (s.setSwitchScript v).cf = s.cf := rfl
@[simp] theorem State.ovf_setSwitchScript (v : List Word) : (s.setSwitchScript v).ovf = s.ovf := rfl
@[simp] theorem State.ie_setSwitchScript (v : List Word) : (s.setSwitchScript v).ie = s.ie := rfl
@[simp] theorem State.halt_setSwitchScript (v : List Word) : (s.setSwitchScript v).halt = s.halt := rfl
@[simp] theorem State.mem_setSwitchScript (v : List Word) : (s.setSwitchScript v).mem = s.mem := rfl
@[simp] theorem State.ioLog_setSwitchScript (v : List Word) : (s.setSwitchScript v).ioLog = s.ioLog := rfl
@[simp] theorem State.switchScript_setSwitchScript (v : List Word) : (s.setSwitchScript v).switchScript = v := rfl
@[simp] theorem State.portScript_setSwitchScript (v : List Word) : (s.setSwitchScript v).portScript = s.portScript := rfl
@[simp] theorem State.irqScript_setSwitchScript (v : List Word) : (s.setSwitchScript v).irqScript = s.irqScript := rfl
@[simp] theorem State.draws_setSwitchScript (v : List Word) : (s.setSwitchScript v).draws = s.draws := rfl
@[simp] theorem State.params_setSwitchScript (v : List Word) : (s.setSwitchScript v).params = s.params := rfl

@[simp] theorem State.ac_setPortScript (v : List Word) : (s.setPortScript v).ac = s.ac := rfl
@[simp] theorem State.ix_setPortScript (v : List Word) : (s.setPortScript v).ix = s.ix := rfl
@[simp] theorem State.iy_setPortScript (v : List Word) : (s.setPortScript v).iy = s.iy := rfl
@[simp] theorem State.sp_setPortScript (v : List Word) : (s.setPortScript v).sp = s.sp := rfl
@[simp] theorem State.pc_setPortScript (v : List Word) : (s.setPortScript v).pc = s.pc := rfl
@[simp] theorem State.cf_setPortScript (v : List Word) : (s.setPortScript v).cf = s.cf := rfl
@[simp] theorem State.ovf_setPortScript (v : List Word) : (s.setPortScript v).ovf = s.ovf := rfl
@[simp] theorem State.ie_setPortScript (v : List Word) : (s.setPortScript v).ie = s.ie := rfl
@[simp] theorem State.halt_setPortScript (v : List Word) : (s.setPortScript v).halt = s.halt := rfl
@[simp] theorem State.mem_setPortScript (v : List Word) : (s.setPortScript v).mem = s.mem := rfl
@[simp] theorem State.ioLog_setPortScript (v : List Word) : (s.setPortScript v).ioLog = s.ioLog := rfl
@[simp] theorem State.switchScript_setPortScript (v : List Word) : (s.setPortScript v).switchScript = s.switchScript := rfl
@[simp] theorem State.portScript_setPortScript (v : List Word) : (s.setPortScript v).portScript = v := rfl
@[simp] theorem State.irqScript_setPortScript (v : List Word) : (s.setPortScript v).irqScript = s.irqScript := rfl
@[simp] theorem State.draws_setPortScript (v : List Word) : (s.setPortScript v).draws = s.draws := rfl
@[simp] theorem State.params_setPortScript (v : List Word) : (s.setPortScript v).params = s.params := rfl

@[simp] theorem State.ac_setIrqScript (v : List Bool) : (s.setIrqScript v).ac = s.ac := rfl
@[simp] theorem State.ix_setIrqScript (v : List Bool) : (s.setIrqScript v).ix = s.ix := rfl
@[simp] theorem State.iy_setIrqScript (v : List Bool) : (s.setIrqScript v).iy = s.iy := rfl
@[simp] theorem State.sp_setIrqScript (v : List Bool) : (s.setIrqScript v).sp = s.sp := rfl
@[simp] theorem State.pc_setIrqScript (v : List Bool) : (s.setIrqScript v).pc = s.pc := rfl
@[simp] theorem State.cf_setIrqScript (v : List Bool) : (s.setIrqScript v).cf = s.cf := rfl
@[simp] theorem State.ovf_setIrqScript (v : List Bool) : (s.setIrqScript v).ovf = s.ovf := rfl
@[simp] theorem State.ie_setIrqScript (v : List Bool) : (s.setIrqScript v).ie = s.ie := rfl
@[simp] theorem State.halt_setIrqScript (v : List Bool) : (s.setIrqScript v).halt = s.halt := rfl
@[simp] theorem State.mem_setIrqScript (v : List Bool) : (s.setIrqScript v).mem = s.mem := rfl
@[simp] theorem State.ioLog_setIrqScript (v : List Bool) : (s.setIrqScript v).ioLog = s.ioLog := rfl
@[simp] theorem State.switchScript_setIrqScript (v : List Bool) : (s.setIrqScript v).switchScript = s.switchScript := rfl
@[simp] theorem State.portScript_setIrqScript (v : List Bool) : (s.setIrqScript v).portScript = s.portScript := rfl
@[simp] theorem State.irqScript_setIrqScript (v : List Bool) : (s.setIrqScript v).irqScript = v := rfl
@[simp] theorem State.draws_setIrqScript (v : List Bool) : (s.setIrqScript v).draws = s.draws := rfl
@[simp] theorem State.params_setIrqScript (v : List Bool) : (s.setIrqScript v).params = s.params := rfl

@[simp] theorem State.ac_setDraws (v : Nat) : (s.setDraws v).ac = s.ac := rfl
@[simp] theorem State.ix_setDraws (v : Nat) : (s.setDraws v).ix = s.ix := rfl
@[simp] theorem State.iy_setDraws (v : Nat) : (s.setDraws v).iy = s.iy := rfl
@[simp] theorem State.sp_setDraws (v : Nat) : (s.setDraws v).sp = s.sp := rfl
@[simp] theorem State.pc_setDraws (v : Nat) : (s.setDraws v).pc = s.pc := rfl
@[simp] theorem State.cf_setDraws (v : Nat) : (s.setDraws v).cf = s.cf := rfl
@[simp] theorem State.ovf_setDraws (v : Nat) : (s.setDraws v).ovf = s.ovf := rfl
@[simp] theorem State.ie_setDraws (v : Nat) : (s.setDraws v).ie = s.ie := rfl
@[simp] theorem State.halt_setDraws (v : Nat) : (s.setDraws v).halt = s.halt := rfl
@[simp] theorem State.mem_setDraws (v : Nat) : (s.setDraws v).mem = s.mem := rfl
@[simp] theorem State.ioLog_setDraws (v : Nat) : (s.setDraws v).ioLog = s.ioLog := rfl
@[simp] theorem State.switchScript_setDraws (v : Nat) : (s.setDraws v).switchScript = s.switchScript := rfl
@[simp] theorem State.portScript_setDraws (v : Nat) : (s.setDraws v).portScript = s.portScript := rfl
@[simp] theorem State.irqScript_setDraws (v : Nat) : (s.setDraws v).irqScript = s.irqScript := rfl
@[simp] theorem State.draws_setDraws (v : Nat) : (s.setDraws v).draws = v := rfl
@[simp] theorem State.params_setDraws (v : Nat) : (s.setDraws v).params = s.params := rfl

end Sys2Proof.Machine
end

