-- ==== Sys2Proof/Laws/Ops.lean ====
section
/-! SUPPORT. What each shared operation can do, said once: its result as updates of the state it is given.
Statements about instructions cite these and do not unfold the operations. -/

namespace Sys2Proof.Machine

variable (s : State)

/-! Updates that change nothing. -/

@[simp] theorem State.setDraws_self : s.setDraws s.draws = s := rfl
@[simp] theorem State.setMem_self : s.setMem s.mem = s := rfl
@[simp] theorem State.setFlags_self : s.setFlags s.cf s.ovf = s := rfl
theorem State.setFlags_eq (c v : Bool) : s.setFlags c v = (s.setCf c).setOvf v := rfl

/-! Free values and inputs. -/

theorem State.drawWord_eq : s.drawWord = (Config.anyWord s.draws, s.setDraws (s.draws + 1)) := rfl

theorem State.drawBit_eq : s.drawBit = (Config.anyBit s.draws, s.setDraws (s.draws + 1)) := rfl

/-- R19: the next switch setting is taken, or a word is drawn. -/
theorem State.readSwitches_spec : ∃ v n,
    s.readSwitches = (v, { s with switchScript := s.switchScript.tail, draws := n }) ∧
    (∀ a l, s.switchScript = a :: l → v = a ∧ n = s.draws) := by
  unfold State.readSwitches
  cases h : s.switchScript with
  | nil =>
    refine ⟨Config.anyWord s.draws, s.draws + 1, ?_, by simp⟩
    simp [State.drawWord_eq, State.setDraws, h]
  | cons a l => exact ⟨a, s.draws, rfl, by simp⟩

/-- R37: the next answer is taken, or a word is drawn. -/
theorem State.portAnswer_spec : ∃ v n,
    s.portAnswer = (v, { s with portScript := s.portScript.tail, draws := n }) ∧
    (∀ a l, s.portScript = a :: l → v = a ∧ n = s.draws) := by
  unfold State.portAnswer
  cases h : s.portScript with
  | nil =>
    refine ⟨Config.anyWord s.draws, s.draws + 1, ?_, by simp⟩
    simp [State.drawWord_eq, State.setDraws, h]
  | cons a l => exact ⟨a, s.draws, rfl, by simp⟩

/-- R207: the next level is taken, or a bit is drawn. -/
theorem State.sampleIrq_spec : ∃ b n,
    s.sampleIrq = (b, { s with irqScript := s.irqScript.tail, draws := n }) ∧
    (∀ a l, s.irqScript = a :: l → b = a ∧ n = s.draws) := by
  unfold State.sampleIrq
  cases h : s.irqScript with
  | nil =>
    refine ⟨Config.anyBit s.draws, s.draws + 1, ?_, by simp⟩
    simp [State.drawBit_eq, State.setDraws, h]
  | cons a l => exact ⟨a, s.draws, rfl, by simp⟩

/-! Flags. -/

theorem State.freeFlags_spec : ∃ c v, s.freeFlags = { s with cf := c, ovf := v, draws := s.draws + 2 } :=
  ⟨_, _, rfl⟩

/-- R99 `FlagsAccUnary`: at most the flags and the draw count change. -/
theorem State.flagsAccUnary_spec (c v : Bool) : ∃ c' v' n,
    s.flagsAccUnary c v = { s with cf := c', ovf := v', draws := n } ∧
    (s.params.flagsAccUnary = .unchanged → c' = s.cf ∧ v' = s.ovf ∧ n = s.draws) ∧
    (s.params.flagsAccUnary = .arithmetic → c' = c ∧ v' = v ∧ n = s.draws) := by
  unfold State.flagsAccUnary
  cases s.params.flagsAccUnary with
  | any =>
    obtain ⟨c', v', h⟩ := s.freeFlags_spec
    exact ⟨c', v', _, h, by simp, by simp⟩
  | arithmetic => exact ⟨c, v, s.draws, rfl, by simp, by simp⟩
  | unchanged => exact ⟨s.cf, s.ovf, s.draws, rfl, by simp, by simp⟩

/-- R99 `FlagsLogic`: at most the flags and the draw count change. -/
theorem State.flagsLogic_spec : ∃ c v n,
    s.flagsLogic = { s with cf := c, ovf := v, draws := n } ∧
    (s.params.flagsLogic = .unchanged → c = s.cf ∧ v = s.ovf ∧ n = s.draws) := by
  unfold State.flagsLogic
  cases s.params.flagsLogic with
  | any =>
    obtain ⟨c', v', h⟩ := s.freeFlags_spec
    exact ⟨c', v', _, h, by simp⟩
  | unchanged => exact ⟨s.cf, s.ovf, s.draws, rfl, by simp⟩

/-- R99 `FlagsStep`: at most the flags and the draw count change. -/
theorem State.flagsStep_spec : ∃ c v n,
    s.flagsStep = { s with cf := c, ovf := v, draws := n } ∧
    (s.params.flagsStep = .unchanged → c = s.cf ∧ v = s.ovf ∧ n = s.draws) := by
  unfold State.flagsStep
  cases s.params.flagsStep with
  | any =>
    obtain ⟨c', v', h⟩ := s.freeFlags_spec
    exact ⟨c', v', _, h, by simp⟩
  | unchanged => exact ⟨s.cf, s.ovf, s.draws, rfl, by simp⟩

theorem getLsbD_putBit (w : Word) (i : Fin 16) (b : Bool) (j : Nat) :
    (putBit w i b).getLsbD j = if j = i.val then b else w.getLsbD j := by
  have hi := i.isLt
  unfold putBit
  cases b
  · simp only [Bool.false_eq_true, if_false, BitVec.getLsbD_and, BitVec.getLsbD_not,
      BitVec.getLsbD_shiftLeft, BitVec.getLsbD_one]
    by_cases h : j = i.val
    · subst h; simp [hi]
    · by_cases hj : j < 16
      · simp only [h, if_false, hj, decide_true, Bool.true_and]
        by_cases hlt : j < i.val
        · simp [hlt]
        · have : ¬ (j - i.val = 0) := by omega
          simp [hlt, this]
      · simp [h, hj, BitVec.getLsbD_of_ge w j (by omega)]
  · simp only [if_true, BitVec.getLsbD_or, BitVec.getLsbD_shiftLeft, BitVec.getLsbD_one]
    by_cases h : j = i.val
    · subst h; simp [hi]
    · by_cases hlt : j < i.val
      · simp [h, hlt]
      · have : ¬ (j - i.val = 0) := by omega
        simp [h, this]

/-- R16: a word is pushed that carries CF and OVF at their bits. -/
theorem State.frPack_spec : ∃ w n, s.frPack = (w, s.setDraws n) ∧
    (s.params.frCfBit ≠ s.params.frOvfBit → w.getLsbD s.params.frCfBit.val = s.cf) ∧
    w.getLsbD s.params.frOvfBit.val = s.ovf := by
  refine ⟨_, _, rfl, ?_, ?_⟩
  · intro h
    have : s.params.frCfBit.val ≠ s.params.frOvfBit.val := fun e => h (Fin.ext e)
    simp only [getLsbD_putBit, this, if_true, if_false]
  · simp only [getLsbD_putBit, if_true]

/-! Memory. -/

/-- Memory `n` comes from `m` by stores of whole words at `ram` addresses. -/
inductive Memory.Stores (p : Params) : Memory → Memory → Prop where
  | none (m : Memory) : Memory.Stores p m m
  | store {m n : Memory} (a v : Word) :
      Memory.Stores p m n → kindAt p a = .ram → Memory.Stores p m (n.putWord a v)

theorem Memory.Stores.trans {p : Params} {m n o : Memory} (h : m.Stores p n) (h' : n.Stores p o) :
    m.Stores p o := by
  induction h' with
  | none => exact h
  | store a v _ hk ih => exact .store a v ih hk

/-- The canonical form is kept. -/
theorem Memory.Stores.wf {p : Params} {m n : Memory} (h : m.Stores p n) (hm : m.wf = true) :
    n.wf = true := by
  induction h with
  | none => exact hm
  | store a v _ _ ih => exact Memory.wf_putWord a v ih

/-- Words stay whole. -/
theorem Memory.Stores.whole {p : Params} {m n : Memory} (h : m.Stores p n) (hm : m.whole) : n.whole := by
  induction h with
  | none => exact hm
  | store a v _ _ ih => exact Memory.whole_putWord a v ih

/-- A word that is not `ram` is never changed (R36). -/
theorem Memory.Stores.word_of_ne_ram {p : Params} {m n : Memory} (h : m.Stores p n) {b : Word}
    (hb : kindAt p b ≠ .ram) : n.word b = m.word b := by
  induction h with
  | none => rfl
  | store a v _ hk ih =>
    rw [Memory.word_putWord_other _ v (by rintro rfl; exact hb hk), ih]

/-- R36: what a read answers; only the draw count can change. -/
theorem State.readWord_spec (a : Word) : ∃ v n, s.readWord a = (v, s.setDraws n) ∧
    (kindAt s.params a ≠ .absent → v = s.mem.word a ∧ n = s.draws) := by
  unfold State.readWord
  cases kindAt s.params a with
  | ram => exact ⟨_, s.draws, rfl, by simp⟩
  | rom => exact ⟨_, s.draws, rfl, by simp⟩
  | absent => exact ⟨_, _, s.drawWord_eq, by simp⟩

theorem State.readWord_of_present {a : Word} (h : kindAt s.params a ≠ .absent) :
    s.readWord a = (s.mem.word a, s) := by
  obtain ⟨v, n, hr, hp⟩ := s.readWord_spec a
  obtain ⟨rfl, rfl⟩ := hp h
  exact hr

theorem State.writeWord_of_ram {a : Word} (v : Word) (h : kindAt s.params a = .ram) :
    s.writeWord a v = s.setMem (s.mem.putWord a v) := by
  simp [State.writeWord, h]

theorem State.writeWord_of_ne_ram {a : Word} (v : Word) (h : kindAt s.params a ≠ .ram) :
    s.writeWord a v = s := by
  unfold State.writeWord
  cases hk : kindAt s.params a with
  | ram => exact absurd hk h
  | rom => rfl
  | absent => rfl

/-- R36: a write replaces the word at a `ram` address and does nothing elsewhere. -/
theorem State.writeWord_spec (a v : Word) : ∃ m, s.writeWord a v = s.setMem m ∧
    s.mem.Stores s.params m ∧
    (kindAt s.params a = .ram → m = s.mem.putWord a v) ∧ (kindAt s.params a ≠ .ram → m = s.mem) := by
  by_cases h : kindAt s.params a = .ram
  · exact ⟨_, s.writeWord_of_ram v h, .store a v (.none _) h, fun _ => rfl, fun h' => absurd h h'⟩
  · exact ⟨s.mem, s.writeWord_of_ne_ram v h, .none _, fun h' => absurd h' h, fun _ => rfl⟩

/-- R58, U5: a fetch answers the word read, or stops at a word nothing has loaded. -/
theorem State.fetchWord_spec (a : Word) :
    (s.fetchWord a = .ok (s.readWord a) ∧
      (kindAt s.params a = .absent ∨ s.mem.loaded a = true)) ∨
    (s.fetchWord a = .error (.unloadedFetch a s) ∧
      kindAt s.params a ≠ .absent ∧ s.mem.loaded a = false) := by
  unfold State.fetchWord
  cases kindAt s.params a with
  | absent => simp
  | ram => cases s.mem.loaded a <;> simp
  | rom => cases s.mem.loaded a <;> simp

/-- A present, loaded word is fetched without any effect. -/
theorem State.fetchWord_of_loaded {a : Word} (hk : kindAt s.params a ≠ .absent) (hl : s.mem.loaded a = true) :
    s.fetchWord a = .ok (s.mem.word a, s) := by
  rcases s.fetchWord_spec a with ⟨h, -⟩ | ⟨-, -, h⟩
  · rw [h, s.readWord_of_present hk]
  · rw [hl] at h; cases h

/-- A present word that nothing has loaded stops the fetch. -/
theorem State.fetchWord_of_unloaded {a : Word} (hk : kindAt s.params a ≠ .absent) (hl : s.mem.loaded a = false) :
    s.fetchWord a = .error (.unloadedFetch a s) := by
  rcases s.fetchWord_spec a with ⟨-, h | h⟩ | ⟨h, -⟩
  · exact absurd h hk
  · rw [hl] at h; cases h
  · exact h

/-! I/O. -/

/-- R37: one event is recorded, with the answer. -/
theorem State.ioRead_spec (p : Word) : ∃ v n,
    s.ioRead p =
      (v, { s with portScript := s.portScript.tail, draws := n, ioLog := s.ioLog ++ [.read p v] }) ∧
    (∀ a l, s.portScript = a :: l → v = a ∧ n = s.draws) := by
  obtain ⟨v, n, h, hv⟩ := s.portAnswer_spec
  refine ⟨v, n, ?_, hv⟩
  rw [State.ioRead, h]
  rfl

theorem State.ioWrite_eq (p v : Word) : s.ioWrite p v = s.setIoLog (s.ioLog ++ [.write p v]) := rfl

/-! The stack. -/

/-- R44: a push stores at its slot and moves SP. -/
theorem State.push_spec (v : Word) : ∃ m, s.push v = { s with mem := m, sp := s.spAfterPush } ∧
    s.mem.Stores s.params m ∧
    (kindAt s.params s.pushSlot = .ram → m = s.mem.putWord s.pushSlot v) ∧
    (kindAt s.params s.pushSlot ≠ .ram → m = s.mem) := by
  obtain ⟨m, h, hw, hr, hn⟩ := s.writeWord_spec s.pushSlot v
  exact ⟨m, by rw [State.push, h]; rfl, hw, hr, hn⟩

/-- R44: a pop reads its slot, leaves memory alone and moves SP. -/
theorem State.pop_spec : ∃ v n, s.pop = (v, { s with draws := n, sp := s.spAfterPop }) ∧
    (kindAt s.params s.popSlot ≠ .absent → v = s.mem.word s.popSlot ∧ n = s.draws) := by
  obtain ⟨v, n, h, hv⟩ := s.readWord_spec s.popSlot
  exact ⟨v, n, by rw [State.pop, h]; rfl, hv⟩

/-- Where SP stands after a push, the next pop reads the pushed word. -/
theorem State.popSlot_after_push {t : State} (hp : t.params = s.params) (hsp : t.sp = s.spAfterPush) :
    t.popSlot = s.pushSlot := by
  unfold State.popSlot State.pushSlot State.spAfterPush at *
  rw [hp]
  cases h : s.params.stackModel <;> simp [h] at hsp ⊢ <;> simp [hsp]

/-- A pop after a push restores SP. -/
theorem State.spAfterPop_after_push {t : State} (hp : t.params = s.params) (hsp : t.sp = s.spAfterPush) :
    t.spAfterPop = s.sp := by
  unfold State.spAfterPop State.spAfterPush at *
  rw [hp]
  cases h : s.params.stackModel <;> simp [h] at hsp ⊢ <;> simp [hsp]

/-! Trap entry and return. -/

/-- R203: one push of the frame: the item's word `w` at the next slot. -/
theorem State.pushItem_spec (ret : Word) (x : FrameItem) : ∃ w m n,
    s.pushItem ret x = { s with mem := m, draws := n, sp := s.spAfterPush } ∧ s.mem.Stores s.params m ∧
    (kindAt s.params s.pushSlot = .ram → m = s.mem.putWord s.pushSlot w) ∧
    (kindAt s.params s.pushSlot ≠ .ram → m = s.mem) ∧
    (match x with
      | .pc => w = ret
      | .fr => s.params.frCfBit ≠ s.params.frOvfBit →
        w.getLsbD s.params.frCfBit.val = s.cf ∧ w.getLsbD s.params.frOvfBit.val = s.ovf
      | .ac => w = s.ac
      | .ix => w = s.ix
      | .iy => w = s.iy) := by
  cases x with
  | fr =>
    obtain ⟨w, n, h, hc, hv⟩ := s.frPack_spec
    obtain ⟨m, hm, hs, hr, hn⟩ := (s.setDraws n).push_spec w
    refine ⟨w, m, n, ?_, hs, hr, hn, fun hd => ⟨hc hd, hv⟩⟩
    simp only [State.pushItem, h, hm]
    rfl
  | pc => obtain ⟨m, hm, hs, hr, hn⟩ := s.push_spec ret; exact ⟨ret, m, s.draws, hm, hs, hr, hn, rfl⟩
  | ac => obtain ⟨m, hm, hs, hr, hn⟩ := s.push_spec s.ac; exact ⟨s.ac, m, s.draws, hm, hs, hr, hn, rfl⟩
  | ix => obtain ⟨m, hm, hs, hr, hn⟩ := s.push_spec s.ix; exact ⟨s.ix, m, s.draws, hm, hs, hr, hn, rfl⟩
  | iy => obtain ⟨m, hm, hs, hr, hn⟩ := s.push_spec s.iy; exact ⟨s.iy, m, s.draws, hm, hs, hr, hn, rfl⟩

@[simp] theorem State.pushFrame_nil (ret : Word) : s.pushFrame ret [] = s := rfl

@[simp] theorem State.pushFrame_cons (ret : Word) (x : FrameItem) (rest : List FrameItem) :
    s.pushFrame ret (x :: rest) = (s.pushItem ret x).pushFrame ret rest := rfl

/-- R203: the pushes of a frame change SP, memory and the draw count only. What each push stores and where is
`pushItem_spec`, item by item. -/
theorem State.pushFrame_spec (ret : Word) (l : List FrameItem) : ∃ m n sp,
    s.pushFrame ret l = { s with mem := m, draws := n, sp := sp } ∧ s.mem.Stores s.params m := by
  induction l generalizing s with
  | nil => exact ⟨s.mem, s.draws, s.sp, rfl, .none _⟩
  | cons x rest ih =>
    obtain ⟨_, m, n, h, hs, -, -, -⟩ := s.pushItem_spec ret x
    obtain ⟨m', n', sp', h', hs'⟩ := ih (s.pushItem ret x)
    refine ⟨m', n', sp', ?_, hs.trans (by simpa [h] using hs')⟩
    rw [State.pushFrame_cons, h', h]

/-- R203: trap entry is the pushes of its frame, IE cleared, and the jump. -/
theorem State.trapEnter_frame (ret target : Word) : ∃ n pc,
    s.trapEnter ret target =
      { s.pushFrame ret s.params.trapFrame with ie := false, pc := pc, draws := n } := by
  unfold State.trapEnter
  cases s.params.trapEntryMode with
  | direct => exact ⟨_, target, rfl⟩
  | vectored =>
    obtain ⟨v, k, hr, -⟩ := ((s.pushFrame ret s.params.trapFrame).setIe false).readWord_spec target
    refine ⟨k, v, ?_⟩
    simp only [hr]
    rfl

/-- R203: what trap entry changes: SP, the pushed words, IE and PC. -/
theorem State.trapEnter_spec (ret target : Word) : ∃ m n sp pc,
    s.trapEnter ret target = { s with mem := m, draws := n, sp := sp, ie := false, pc := pc } ∧
    s.mem.Stores s.params m ∧ (s.params.trapEntryMode = .direct → pc = target) ∧
    (s.params.trapEntryMode = .vectored → kindAt s.params target ≠ .absent → pc = m.word target) := by
  obtain ⟨m, n, sp, h, hs⟩ := s.pushFrame_spec ret s.params.trapFrame
  unfold State.trapEnter
  cases hm : s.params.trapEntryMode with
  | direct => exact ⟨m, n, sp, target, by rw [h]; rfl, hs, fun _ => rfl, by simp⟩
  | vectored =>
    obtain ⟨v, k, hr, hv⟩ := ((s.pushFrame ret s.params.trapFrame).setIe false).readWord_spec target
    refine ⟨m, k, sp, v, ?_, hs, by simp, ?_⟩
    · simp only [hr]
      rw [h]
      rfl
    · intro _ ha
      rw [h] at hv
      exact (hv ha).1

/-- R205: one popped word goes to the register the frame names. -/
theorem State.restoreItem_spec (new : Option Word) (v : Word) (x : FrameItem) : ∃ ac ix iy c o,
    (s.restoreItem new v x).1 = { s with ac := ac, ix := ix, iy := iy, cf := c, ovf := o } ∧
    (x ≠ .ac → ac = s.ac) ∧ (x ≠ .ix → ix = s.ix) ∧ (x ≠ .iy → iy = s.iy) ∧
    (x ≠ .fr → c = s.cf ∧ o = s.ovf) ∧
    (s.restoreItem new v x).2 = if x = .pc then some v else new := by
  cases x
  · exact ⟨s.ac, s.ix, s.iy, s.cf, s.ovf, rfl, by simp, by simp, by simp, by simp, rfl⟩
  · exact ⟨s.ac, s.ix, s.iy, _, _, rfl, by simp, by simp, by simp, by simp, rfl⟩
  · exact ⟨v, s.ix, s.iy, s.cf, s.ovf, rfl, by simp, by simp, by simp, by simp, rfl⟩
  · exact ⟨s.ac, v, s.iy, s.cf, s.ovf, rfl, by simp, by simp, by simp, by simp, rfl⟩
  · exact ⟨s.ac, s.ix, v, s.cf, s.ovf, rfl, by simp, by simp, by simp, by simp, rfl⟩

/-- R205: the pops of a frame change SP, the registers it names and the draw count only; a return address
comes out exactly when the frame holds `PC` or one was there before. -/
theorem State.popFrame_spec (new : Option Word) (l : List FrameItem) : ∃ ac ix iy c o sp n,
    (s.popFrame new l).1 =
      { s with ac := ac, ix := ix, iy := iy, cf := c, ovf := o, sp := sp, draws := n } ∧
    (.ac ∉ l → ac = s.ac) ∧ (.ix ∉ l → ix = s.ix) ∧ (.iy ∉ l → iy = s.iy) ∧
    (.fr ∉ l → c = s.cf ∧ o = s.ovf) ∧
    ((s.popFrame new l).2.isSome = (l.contains .pc || new.isSome)) := by
  induction l generalizing s new with
  | nil =>
    refine ⟨s.ac, s.ix, s.iy, s.cf, s.ovf, s.sp, s.draws, rfl, fun _ => rfl, fun _ => rfl, fun _ => rfl,
      fun _ => ⟨rfl, rfl⟩, ?_⟩
    simp [State.popFrame]
  | cons x rest ih =>
    obtain ⟨v, n, hp, -⟩ := s.pop_spec
    obtain ⟨ac, ix, iy, c, o, h1, ha, hx, hy, hf, hn⟩ := s.pop.2.restoreItem_spec new s.pop.1 x
    rw [hp] at h1 ha hx hy hf hn
    have hstep : s.popFrame new (x :: rest) = State.popFrame
        { s with ac := ac, ix := ix, iy := iy, cf := c, ovf := o, draws := n, sp := s.spAfterPop }
        (if x = .pc then some v else new) rest := by
      simp only [State.popFrame]
      rw [hp]
      simp only [h1, hn]
    obtain ⟨ac', ix', iy', c', o', sp', n', h1', ha', hx', hy', hf', hn'⟩ := ih
      { s with ac := ac, ix := ix, iy := iy, cf := c, ovf := o, draws := n, sp := s.spAfterPop }
      (if x = .pc then some v else new)
    rw [hstep]
    refine ⟨ac', ix', iy', c', o', sp', n', h1', ?_, ?_, ?_, ?_, ?_⟩
    · intro h
      rw [List.mem_cons, not_or] at h
      exact (ha' h.2).trans (ha (Ne.symm h.1))
    · intro h
      rw [List.mem_cons, not_or] at h
      exact (hx' h.2).trans (hx (Ne.symm h.1))
    · intro h
      rw [List.mem_cons, not_or] at h
      exact (hy' h.2).trans (hy (Ne.symm h.1))
    · intro h
      rw [List.mem_cons, not_or] at h
      exact ⟨(hf' h.2).1.trans (hf (Ne.symm h.1)).1, (hf' h.2).2.trans (hf (Ne.symm h.1)).2⟩
    · rw [hn']
      by_cases hxp : x = .pc
      · subst hxp; simp
      · have : (FrameItem.pc == x) = false := by
          cases x <;> first | rfl | exact absurd rfl hxp
        rw [if_neg hxp, List.contains_cons, this, Bool.false_or]

/-- R205: what trap return does when its frame holds `PC`. -/
theorem State.trapReturn_spec (h : FrameItem.pc ∈ s.params.trapFrame) : ∃ ac ix iy c o sp n pc,
    s.trapReturn = .next { s with
      ac := ac, ix := ix, iy := iy, cf := c, ovf := o, sp := sp, draws := n, ie := true, pc := pc } ∧
    (.ac ∉ s.params.trapFrame → ac = s.ac) ∧ (.ix ∉ s.params.trapFrame → ix = s.ix) ∧
    (.iy ∉ s.params.trapFrame → iy = s.iy) ∧ (.fr ∉ s.params.trapFrame → c = s.cf ∧ o = s.ovf) := by
  obtain ⟨ac, ix, iy, c, o, sp, n, h1, ha, hx, hy, hf, hn⟩ := s.popFrame_spec none s.params.trapFrame.reverse
  simp only [List.mem_reverse] at ha hx hy hf
  have hn' : (s.popFrame none s.params.trapFrame.reverse).2.isSome = true := by
    rw [hn]; simp [h]
  obtain ⟨pc, hpc⟩ := Option.isSome_iff_exists.mp hn'
  refine ⟨ac, ix, iy, c, o, sp, n, pc, ?_, ha, hx, hy, hf⟩
  unfold State.trapReturn
  generalize s.popFrame none s.params.trapFrame.reverse = r at h1 hpc
  obtain ⟨t, new⟩ := r
  simp only at h1 hpc
  subst h1 hpc
  rfl

end Sys2Proof.Machine
end

