-- ==== Sys2Proof/Laws/Operands.lean ====
section
/-! SUPPORT. What operand resolution and the shapes of the two-word instructions can do, said once. -/

namespace Sys2Proof.Machine

variable (s : State)

/-- R69: resolution changes the draw count at most, and gives an address except in the immediate form. -/
theorem resolve_spec (f : Form) (m : Word) : ∃ o n,
    resolve f m s = (o, { s with draws := n }) ∧ (f ≠ .immediate → o.ea.isSome = true) ∧
    (f = .immediate → o.ea = none ∧ o.pointer = none ∧ n = s.draws) := by
  obtain ⟨v, n, h, -⟩ := s.readWord_spec m
  cases f
  · exact ⟨_, s.draws, rfl, by simp, by simp⟩
  · exact ⟨_, s.draws, rfl, by simp, by simp⟩
  all_goals first
    | exact ⟨_, s.draws, rfl, by simp, by simp⟩
    | (simp only [resolve, h]
       exact ⟨_, n, rfl, by simp, by simp⟩)

/-- Only the post-increment forms latch a pointer (R69). -/
theorem resolve_pointer (f : Form) (m : Word) :
    (resolve f m s).1.pointer =
      match f with
      | .postInc => some (s.readWord m).1
      | .postIncIndexed _ => some (s.readWord m).1
      | _ => none := by
  cases f <;> rfl

/-- R69: the value, and at most a draw. -/
theorem Operand.value_spec (o : Operand) (m : Word) : ∃ v n,
    o.value m s = (v, { s with draws := n }) ∧
    (∀ ea, o.ea = some ea → (v, { s with draws := n }) = s.readWord ea) ∧
    (o.ea = none → v = m ∧ n = s.draws) := by
  unfold Operand.value
  cases h : o.ea with
  | none => exact ⟨m, s.draws, rfl, by simp, by simp⟩
  | some ea =>
    obtain ⟨v, n, hr, -⟩ := s.readWord_spec ea
    refine ⟨v, n, hr, ?_, by simp⟩
    intro ea' he
    cases he
    exact hr.symm

/-- R70: the post-increment stores the latched pointer plus one, or does nothing. -/
theorem Operand.postInc_spec (o : Operand) (m : Word) : ∃ mem,
    o.postInc m s = { s with mem := mem } ∧ s.mem.Stores s.params mem ∧
    (o.pointer = none → mem = s.mem) ∧
    (∀ p, o.pointer = some p → kindAt s.params m = .ram → mem = s.mem.putWord m (p + 1)) ∧
    (kindAt s.params m ≠ .ram → mem = s.mem) := by
  unfold Operand.postInc
  cases o.pointer with
  | none => exact ⟨s.mem, rfl, .none _, by simp, by simp, by simp⟩
  | some p =>
    obtain ⟨mem, h, hs, hr, hn⟩ := s.writeWord_spec m (p + 1)
    exact ⟨mem, h, hs, by simp, by rintro _ ⟨⟩ hk; exact hr hk, hn⟩

/-- The value class (R69): whatever the instruction does with the datum, it gets the same datum. -/
theorem withValue_spec (f : Form) (m : Word) : ∃ v n, ∀ act,
    withValue f m act s =
      .next (((resolve f m s).1.postInc m (act v { s with draws := n })).advance 2) := by
  obtain ⟨o, n, h, -, -⟩ := resolve_spec s f m
  obtain ⟨v, k, hv, -, -⟩ := Operand.value_spec { s with draws := n } o m
  refine ⟨v, k, fun act => ?_⟩
  simp only [withValue, h, hv]

/-- The jumps (R179): the same datum, and PC alone depends on the condition. -/
theorem jumpWhen_spec (f : Form) (m : Word) : ∃ v n,
    (∀ act, withValue f m act s =
      .next (((resolve f m s).1.postInc m (act v { s with draws := n })).advance 2)) ∧
    ∀ cond, jumpWhen cond f m s = .next
      (((resolve f m s).1.postInc m { s with draws := n }).setPc (if cond s then v else s.pc + 2)) := by
  obtain ⟨o, n, h, -, -⟩ := resolve_spec s f m
  obtain ⟨v, k, hv, -, -⟩ := Operand.value_spec { s with draws := n } o m
  refine ⟨v, k, fun act => ?_, fun cond => ?_⟩
  · simp only [withValue, h, hv]
  · obtain ⟨mem, hp, -⟩ := Operand.postInc_spec { s with draws := k } o m
    simp only [jumpWhen, h, hv]
    rw [hp]
    cases cond s <;> rfl

/-- The location class (R69): for a listed form, the access is made at the resolved address. -/
theorem withLocation_spec {forms : FormSet} {f : Form} (m : Word) (hf : forms.admits f = true)
    (hi : f ≠ .immediate) : ∃ ea n, (resolve f m s).1.ea = some ea ∧ (resolve f m s).2 = { s with draws := n } ∧
    ∀ i act, withLocation forms i f m act s =
      .next (((resolve f m s).1.postInc m (act ea { s with draws := n })).advance 2) := by
  obtain ⟨o, n, h, he, -⟩ := resolve_spec s f m
  obtain ⟨ea, hea⟩ := Option.isSome_iff_exists.mp (he hi)
  refine ⟨ea, n, by rw [h]; exact hea, by rw [h], fun i act => ?_⟩
  simp only [withLocation, h, hf, hea]

/-- R55: a form outside the set faults with its undefined word. -/
theorem withLocation_of_not_admits {forms : FormSet} {f : Form} (m : Word)
    (hf : forms.admits f = false) (i : Instr) (act : Word → State → State) :
    withLocation forms i f m act s = .fault (.undefinedOpcode i.opcodeWord s) := by
  simp only [withLocation, hf, undefinedForm]

/-- A form of F12 or F11 is not the immediate one. -/
theorem ne_immediate_of_f12 {f : Form} (h : FormSet.f12.admits f = true) : f ≠ .immediate := by
  rintro rfl; simp [FormSet.admits] at h

theorem ne_immediate_of_f11 {f : Form} (h : FormSet.f11.admits f = true) : f ≠ .immediate := by
  rintro rfl; simp [FormSet.admits] at h

/-- R170, R171: for a listed form, the memory word is counted, and the skip is taken on zero. -/
theorem countAndSkip_spec {f : Form} (m : Word) (hf : FormSet.f11.admits f = true) :
    ∃ ea n, (resolve f m s).1.ea = some ea ∧ (resolve f m s).2 = { s with draws := n } ∧
    ∀ i count, countAndSkip i f m count s =
      (let t := ({ s with draws := n } : State).readWord ea
       let u := (resolve f m s).1.postInc m (t.2.writeWord ea (count t.1)).flagsStep
       if count t.1 = 0x0000 then u.skip else .next (u.advance 2)) := by
  obtain ⟨o, n, h, he, -⟩ := resolve_spec s f m
  obtain ⟨ea, hea⟩ := Option.isSome_iff_exists.mp (he (ne_immediate_of_f11 hf))
  refine ⟨ea, n, by rw [h]; exact hea, by rw [h], fun i count => ?_⟩
  simp only [countAndSkip, h, hf, hea]

/-- R172: the skip lands after the next instruction, or faults with the state it was given (and at most a
draw). -/
theorem State.skip_spec : ∃ w n, s.readWord (s.pc + 2) = (w, { s with draws := n }) ∧
    ((s.skip = .fault (.unloadedFetch (s.pc + 2) s) ∧ kindAt s.params (s.pc + 2) ≠ .absent ∧
        s.mem.loaded (s.pc + 2) = false) ∨
     ((kindAt s.params (s.pc + 2) = .absent ∨ s.mem.loaded (s.pc + 2) = true) ∧
      ((opcodeLength w = none ∧ s.skip = .fault (.undefinedOpcode w { s with draws := n })) ∨
       ∃ len, opcodeLength w = some len ∧
         s.skip = .next { s with draws := n, pc := s.pc + 2 + BitVec.ofNat 16 len }))) := by
  obtain ⟨w, n, hr, -⟩ := s.readWord_spec (s.pc + 2)
  refine ⟨w, n, hr, ?_⟩
  rcases s.fetchWord_spec (s.pc + 2) with ⟨h, hl⟩ | ⟨h, ha, hl⟩
  · refine .inr ⟨hl, ?_⟩
    cases ho : opcodeLength w with
    | none =>
      refine .inl ⟨rfl, ?_⟩
      simp only [State.skip, h, hr, ho]
      rfl
    | some len =>
      refine .inr ⟨len, rfl, ?_⟩
      simp only [State.skip, h, hr, ho]
      rfl
  · exact .inl ⟨by simp only [State.skip, h], ha, hl⟩

end Sys2Proof.Machine
end

