-- ==== Sys2Proof/Laws/PerInstr.lean ====
section
/-! SUPPORT. Per-instruction facts. OpcodeLength: the opcode word of a well-formed instruction tells how many
words it is encoded in (30_encoding.md R57). -/

namespace Sys2Proof.Laws

/-- R57: `Len` of the opcode word is the length of the encoding. -/
def OpcodeLength.Statement (i : Instr) : Prop :=
  i.wf = true → opcodeLength i.opcodeWord = some (encode i).length

/-- The lookups behind `Len` for a two-word instruction. -/
theorem opcodeLength_of_row {f : Form} {op : Byte} {forms : FormSet} {make : Form → Word → Instr}
    (hrow : operandRows.lookup op = some ⟨forms, make⟩) (hf : forms.admits f = true) :
    opcodeLength (f.mode ++ op) = some 2 := by
  have hm : modeByte (f.mode ++ op) = f.mode := by
    simp only [modeByte]
    exact BitVec.extractLsb'_append_eq_left
  have ho : opByte (f.mode ++ op) = op := by
    simp only [opByte]
    exact BitVec.extractLsb'_append_eq_right
  have hform : formOfMode f.mode = some f := by
    cases f <;> first | rfl | (rename_i x; cases x <;> rfl)
  have hne : f.mode ≠ 0x00 := by
    cases f <;> first | decide | (rename_i x; cases x <;> decide)
  simp only [opcodeLength, opcodeMeaning, hm, ho, hne, if_false, hform, hrow, hf, if_true]

theorem OpcodeLength.inc : OpcodeLength.Statement .inc := fun _ => rfl

theorem OpcodeLength.dec : OpcodeLength.Statement .dec := fun _ => rfl

theorem OpcodeLength.com : OpcodeLength.Statement .com := fun _ => rfl

theorem OpcodeLength.neg : OpcodeLength.Statement .neg := fun _ => rfl

theorem OpcodeLength.set : OpcodeLength.Statement .set := fun _ => rfl

theorem OpcodeLength.clr : OpcodeLength.Statement .clr := fun _ => rfl

theorem OpcodeLength.shl : OpcodeLength.Statement .shl := fun _ => rfl

theorem OpcodeLength.lsr : OpcodeLength.Statement .lsr := fun _ => rfl

theorem OpcodeLength.asr : OpcodeLength.Statement .asr := fun _ => rfl

theorem OpcodeLength.rol : OpcodeLength.Statement .rol := fun _ => rfl

theorem OpcodeLength.ror : OpcodeLength.Statement .ror := fun _ => rfl

theorem OpcodeLength.lsw : OpcodeLength.Statement .lsw := fun _ => rfl

theorem OpcodeLength.scf : OpcodeLength.Statement .scf := fun _ => rfl

theorem OpcodeLength.ccf : OpcodeLength.Statement .ccf := fun _ => rfl

theorem OpcodeLength.psa : OpcodeLength.Statement .psa := fun _ => rfl

theorem OpcodeLength.poa : OpcodeLength.Statement .poa := fun _ => rfl

theorem OpcodeLength.psf : OpcodeLength.Statement .psf := fun _ => rfl

theorem OpcodeLength.pof : OpcodeLength.Statement .pof := fun _ => rfl

theorem OpcodeLength.eni : OpcodeLength.Statement .eni := fun _ => rfl

theorem OpcodeLength.dii : OpcodeLength.Statement .dii := fun _ => rfl

theorem OpcodeLength.rtn : OpcodeLength.Statement .rtn := fun _ => rfl

theorem OpcodeLength.rti : OpcodeLength.Statement .rti := fun _ => rfl

theorem OpcodeLength.nop : OpcodeLength.Statement .nop := fun _ => rfl

theorem OpcodeLength.inx : OpcodeLength.Statement .inx := fun _ => rfl

theorem OpcodeLength.iny : OpcodeLength.Statement .iny := fun _ => rfl

theorem OpcodeLength.ins : OpcodeLength.Statement .ins := fun _ => rfl

theorem OpcodeLength.dex : OpcodeLength.Statement .dex := fun _ => rfl

theorem OpcodeLength.dey : OpcodeLength.Statement .dey := fun _ => rfl

theorem OpcodeLength.des : OpcodeLength.Statement .des := fun _ => rfl

theorem OpcodeLength.max : OpcodeLength.Statement .max := fun _ => rfl

theorem OpcodeLength.may : OpcodeLength.Statement .may := fun _ => rfl

theorem OpcodeLength.mas : OpcodeLength.Statement .mas := fun _ => rfl

theorem OpcodeLength.mxa : OpcodeLength.Statement .mxa := fun _ => rfl

theorem OpcodeLength.mya : OpcodeLength.Statement .mya := fun _ => rfl

theorem OpcodeLength.msa : OpcodeLength.Statement .msa := fun _ => rfl

theorem OpcodeLength.psx : OpcodeLength.Statement .psx := fun _ => rfl

theorem OpcodeLength.pox : OpcodeLength.Statement .pox := fun _ => rfl

theorem OpcodeLength.psy : OpcodeLength.Statement .psy := fun _ => rfl

theorem OpcodeLength.poy : OpcodeLength.Statement .poy := fun _ => rfl

theorem OpcodeLength.bsw : OpcodeLength.Statement .bsw := fun _ => rfl

theorem OpcodeLength.bsl : OpcodeLength.Statement .bsl := fun _ => rfl

theorem OpcodeLength.bsr : OpcodeLength.Statement .bsr := fun _ => rfl

theorem OpcodeLength.brk : OpcodeLength.Statement .brk := fun _ => rfl

theorem OpcodeLength.hlt : OpcodeLength.Statement .hlt := fun _ => rfl

theorem OpcodeLength.lda (f : Form) (m : Word) : OpcodeLength.Statement (.lda f m) :=
  fun h => opcodeLength_of_row rfl h

theorem OpcodeLength.lds (f : Form) (m : Word) : OpcodeLength.Statement (.lds f m) :=
  fun h => opcodeLength_of_row rfl h

theorem OpcodeLength.sta (f : Form) (m : Word) : OpcodeLength.Statement (.sta f m) :=
  fun h => opcodeLength_of_row rfl h

theorem OpcodeLength.sts (f : Form) (m : Word) : OpcodeLength.Statement (.sts f m) :=
  fun h => opcodeLength_of_row rfl h

theorem OpcodeLength.add (f : Form) (m : Word) : OpcodeLength.Statement (.add f m) :=
  fun h => opcodeLength_of_row rfl h

theorem OpcodeLength.adc (f : Form) (m : Word) : OpcodeLength.Statement (.adc f m) :=
  fun h => opcodeLength_of_row rfl h

theorem OpcodeLength.sub (f : Form) (m : Word) : OpcodeLength.Statement (.sub f m) :=
  fun h => opcodeLength_of_row rfl h

theorem OpcodeLength.sbc (f : Form) (m : Word) : OpcodeLength.Statement (.sbc f m) :=
  fun h => opcodeLength_of_row rfl h

theorem OpcodeLength.and (f : Form) (m : Word) : OpcodeLength.Statement (.and f m) :=
  fun h => opcodeLength_of_row rfl h

theorem OpcodeLength.ora (f : Form) (m : Word) : OpcodeLength.Statement (.ora f m) :=
  fun h => opcodeLength_of_row rfl h

theorem OpcodeLength.xor (f : Form) (m : Word) : OpcodeLength.Statement (.xor f m) :=
  fun h => opcodeLength_of_row rfl h

theorem OpcodeLength.isz (f : Form) (m : Word) : OpcodeLength.Statement (.isz f m) :=
  fun h => opcodeLength_of_row rfl h

theorem OpcodeLength.dsz (f : Form) (m : Word) : OpcodeLength.Statement (.dsz f m) :=
  fun h => opcodeLength_of_row rfl h

theorem OpcodeLength.jmp (f : Form) (m : Word) : OpcodeLength.Statement (.jmp f m) :=
  fun h => opcodeLength_of_row rfl h

theorem OpcodeLength.joz (f : Form) (m : Word) : OpcodeLength.Statement (.joz f m) :=
  fun h => opcodeLength_of_row rfl h

theorem OpcodeLength.jnz (f : Form) (m : Word) : OpcodeLength.Statement (.jnz f m) :=
  fun h => opcodeLength_of_row rfl h

theorem OpcodeLength.jpl (f : Form) (m : Word) : OpcodeLength.Statement (.jpl f m) :=
  fun h => opcodeLength_of_row rfl h

theorem OpcodeLength.jmi (f : Form) (m : Word) : OpcodeLength.Statement (.jmi f m) :=
  fun h => opcodeLength_of_row rfl h

theorem OpcodeLength.joc (f : Form) (m : Word) : OpcodeLength.Statement (.joc f m) :=
  fun h => opcodeLength_of_row rfl h

theorem OpcodeLength.jnc (f : Form) (m : Word) : OpcodeLength.Statement (.jnc f m) :=
  fun h => opcodeLength_of_row rfl h

theorem OpcodeLength.jov (f : Form) (m : Word) : OpcodeLength.Statement (.jov f m) :=
  fun h => opcodeLength_of_row rfl h

theorem OpcodeLength.jnv (f : Form) (m : Word) : OpcodeLength.Statement (.jnv f m) :=
  fun h => opcodeLength_of_row rfl h

theorem OpcodeLength.csr (f : Form) (m : Word) : OpcodeLength.Statement (.csr f m) :=
  fun h => opcodeLength_of_row rfl h

theorem OpcodeLength.inp (f : Form) (m : Word) : OpcodeLength.Statement (.inp f m) :=
  fun h => opcodeLength_of_row rfl h

theorem OpcodeLength.out (f : Form) (m : Word) : OpcodeLength.Statement (.out f m) :=
  fun h => opcodeLength_of_row rfl h

theorem OpcodeLength.ldx (f : Form) (m : Word) : OpcodeLength.Statement (.ldx f m) :=
  fun h => opcodeLength_of_row rfl h

theorem OpcodeLength.ldy (f : Form) (m : Word) : OpcodeLength.Statement (.ldy f m) :=
  fun h => opcodeLength_of_row rfl h

theorem OpcodeLength.stx (f : Form) (m : Word) : OpcodeLength.Statement (.stx f m) :=
  fun h => opcodeLength_of_row rfl h

theorem OpcodeLength.sty (f : Form) (m : Word) : OpcodeLength.Statement (.sty f m) :=
  fun h => opcodeLength_of_row rfl h

end Sys2Proof.Laws
end

