-- ==== Sys2Proof/Laws/Step.lean ====
section
/-! SUPPORT. What a step can do, said once (30_encoding.md R58). -/

namespace Sys2Proof.Machine

variable (s : State)

/-- R58: what a fetch answers; at most the draw count changes. -/
theorem State.fetchInstr_spec :
    (∃ e, s.fetchInstr = .error e) ∨ ∃ i n, s.fetchInstr = .ok (i, { s with draws := n }) := by
  obtain ⟨w, n, hr, -⟩ := s.readWord_spec s.pc
  unfold State.fetchInstr
  rcases s.fetchWord_spec s.pc with ⟨h, -⟩ | ⟨h, -⟩
  · rw [h, hr]
    simp only
    cases opcodeMeaning w with
    | none => exact .inl ⟨_, rfl⟩
    | some om =>
      cases om with
      | implied i => exact .inr ⟨i, n, rfl⟩
      | operand make =>
        obtain ⟨m, k, hm, -⟩ := (s.setDraws n).readWord_spec (s.pc + 1)
        rcases (s.setDraws n).fetchWord_spec (s.pc + 1) with ⟨h', -⟩ | ⟨h', -⟩
        · rw [h', hm]; exact .inr ⟨make m, k, rfl⟩
        · rw [h']; exact .inl ⟨_, rfl⟩
  · rw [h]; exact .inl ⟨_, rfl⟩

/-- R58: with no interrupt to take, the step is what the fetch gives. -/
theorem step_of_fetch (hp : acceptedParams s.params = true) (hh : s.halt = false)
    (hi : s.ie = false ∨ s.sampleIrq.1 = false) :
    step s =
      match s.sampleIrq.2.fetchInstr with
      | .error e => .fault e
      | .ok (i, t) => exec i t := by
  have hb : (s.ie && s.sampleIrq.1) = false := by rcases hi with h | h <;> simp [h]
  unfold step boundary
  rw [if_neg (by simp [hp]), if_neg (by simp [hh])]
  simp only [hb]
  cases s.sampleIrq.2.fetchInstr <;> rfl

/-- Everything a step that goes on can be: an interrupt entry, or one instruction run in a state that
differs from the boundary's in the interrupt levels still to come and the draw count only. -/
theorem step_next {t : State} (h : step s = .next t) :
    acceptedParams s.params = true ∧ s.halt = false ∧ ∃ l n,
      (s.ie = true ∧
        t = ({ s with irqScript := l, draws := n } : State).trapEnter s.pc s.params.irqAddress) ∨
      ∃ i, exec i { s with irqScript := l, draws := n } = .next t := by
  obtain ⟨b, n, hq, -⟩ := s.sampleIrq_spec
  unfold step boundary at h
  by_cases hp : acceptedParams s.params = false
  · rw [if_pos hp] at h
    cases h
  rw [if_neg hp] at h
  by_cases hh : s.halt = true
  · rw [if_pos hh] at h
    cases h
  rw [if_neg hh, hq] at h
  refine ⟨by simpa using hp, by simpa using hh, s.irqScript.tail, ?_⟩
  by_cases hi : (s.ie && b) = true
  · simp only [hi, if_true] at h
    rw [Bool.and_eq_true] at hi
    exact ⟨n, .inl ⟨hi.1, (Host.Outcome.next.inj h).symm⟩⟩
  · simp only [hi] at h
    rcases State.fetchInstr_spec { s with irqScript := s.irqScript.tail, draws := n } with
      ⟨e, he⟩ | ⟨i, k, he⟩
    · rw [he] at h
      cases h
    · rw [he] at h
      exact ⟨k, .inr ⟨i, h⟩⟩

end Sys2Proof.Machine
end

