-- ==== Sys2Proof/Tests/Slice0.lean ====
section
/-! SUPPORT. Tests: well-formedness, every instruction's decoding from a word written out from
30_encoding.md R52 to R54, one step of every instruction with values of 95_test_vectors.md, and witnesses
that the hypotheses of the statements can be met. -/

namespace Sys2Proof.Tests

open Sys2Proof.Machine Sys2Proof.Claims

/-! WellFormed: each set of forms refuses what it leaves out (R55). -/

theorem test_store_has_no_immediate : (Instr.sta .immediate 5).wf = false := by decide
theorem test_output_has_no_immediate : (Instr.out .immediate 5).wf = false := by decide
theorem test_skip_has_no_immediate : (Instr.isz .immediate 5).wf = false := by decide
theorem test_skip_has_no_post_increment : (Instr.dsz .postInc 5).wf = false := by decide
theorem test_call_has_no_indexed : (Instr.csr (.indexed .ix) 5).wf = false := by decide
theorem test_call_has_no_indirect_indexed : (Instr.csr (.indirectIndexed .sp) 5).wf = false := by decide
theorem test_call_has_no_post_increment_indexed : (Instr.csr (.postIncIndexed .iy) 5).wf = false := by decide
theorem test_load_has_every_form : allForms.all (fun f => (Instr.lda f 5).wf) = true := by decide

/-! Decoding. A one-word instruction is its `op` byte after the mode byte 00000000; a two-word one has the
operand word above its opcode word here, as spec/opcode_table.json numbers the bits. -/

theorem test_decode_accumulator :
    [0b0000000000011010, 0b0000000000011011, 0b0000000000011100, 0b0000000000011101, 0b0000000000011110,
     0b0000000000011111, 0b0000000000100000, 0b0000000000100001, 0b0000000000100010, 0b0000000000100011,
     0b0000000000100100, 0b0000000000100101, 0b0000000000100110, 0b0000000000100111, 0b0000000001000101,
     0b0000000001000110, 0b0000000001000111].map (decodeTableWord 16) =
    [Instr.inc, .dec, .com, .neg, .set, .clr, .shl, .lsr, .asr, .rol, .ror, .lsw, .scf, .ccf,
     .bsw, .bsl, .bsr].map some := by decide

theorem test_decode_stack_and_register :
    [0b0000000000101000, 0b0000000000101001, 0b0000000000101010, 0b0000000000101011, 0b0000000000110101,
     0b0000000000110110, 0b0000000000110111, 0b0000000000111000, 0b0000000000111001, 0b0000000000111010,
     0b0000000000111011, 0b0000000000111100, 0b0000000000111101, 0b0000000000111110, 0b0000000000111111,
     0b0000000001000000, 0b0000000001000001, 0b0000000001000010, 0b0000000001000011,
     0b0000000001000100].map (decodeTableWord 16) =
    [Instr.psa, .poa, .psf, .pof, .inx, .iny, .ins, .dex, .dey, .des, .max, .may, .mas, .mxa, .mya, .msa,
     .psx, .pox, .psy, .poy].map some := by decide

theorem test_decode_control :
    [0b0000000000101100, 0b0000000000101101, 0b0000000000101110, 0b0000000000101111, 0b0000000000110000,
     0b0000000001001000, 0b0000000011111111].map (decodeTableWord 16) =
    [Instr.eni, .dii, .rtn, .rti, .nop, .brk, .hlt].map some := by decide

/-- Opcode byte `op` of every two-word instruction, here with the direct mode byte 00000001 and the operand
word 0x1234. -/
theorem test_decode_memory_reference :
    [0b0000000100000001, 0b0000000100000010, 0b0000000100000011, 0b0000000100000100, 0b0000000100000101,
     0b0000000100000110, 0b0000000100000111, 0b0000000100001000, 0b0000000100001001, 0b0000000100001010,
     0b0000000100001011, 0b0000000100001100, 0b0000000100001101].map
      (fun w => decodeTableWord 32 (0x1234 * 2 ^ 16 + w)) =
    [Instr.lda .direct 0x1234, .lds .direct 0x1234, .sta .direct 0x1234, .sts .direct 0x1234,
     .add .direct 0x1234, .adc .direct 0x1234, .sub .direct 0x1234, .sbc .direct 0x1234,
     .and .direct 0x1234, .ora .direct 0x1234, .xor .direct 0x1234, .isz .direct 0x1234,
     .dsz .direct 0x1234].map some := by decide

theorem test_decode_jump_io_index :
    [0b0000000100001110, 0b0000000100001111, 0b0000000100010000, 0b0000000100010001, 0b0000000100010010,
     0b0000000100010011, 0b0000000100010100, 0b0000000100010101, 0b0000000100010110, 0b0000000100010111,
     0b0000000100011000, 0b0000000100011001, 0b0000000100110001, 0b0000000100110010, 0b0000000100110011,
     0b0000000100110100].map (fun w => decodeTableWord 32 (0x1234 * 2 ^ 16 + w)) =
    [Instr.jmp .direct 0x1234, .joz .direct 0x1234, .jnz .direct 0x1234, .jpl .direct 0x1234,
     .jmi .direct 0x1234, .joc .direct 0x1234, .jnc .direct 0x1234, .jov .direct 0x1234,
     .jnv .direct 0x1234, .csr .direct 0x1234, .inp .direct 0x1234, .out .direct 0x1234,
     .ldx .direct 0x1234, .ldy .direct 0x1234, .stx .direct 0x1234, .sty .direct 0x1234].map some := by decide

/-- Every mode byte of R52, on LDA. -/
theorem test_decode_forms :
    [0b0000001100000001, 0b0000000100000001, 0b0000010100000001, 0b0000110100000001, 0b0001000100000001,
     0b0010000100000001, 0b0011000100000001, 0b0001010100000001, 0b0010010100000001, 0b0011010100000001,
     0b0001110100000001, 0b0010110100000001, 0b0011110100000001].map
      (fun w => decodeTableWord 32 (0x8001 * 2 ^ 16 + w)) =
    allForms.map (fun f => some (Instr.lda f 0x8001)) := by decide

/-- 95_test_vectors.md V30: words that are no instruction. -/
theorem test_undefined_words :
    ([0x0000, 0x0100, 0x0300, 0x0031, 0x0049, 0x00FE, 0xFFFF, 0x011A, 0x0D1A, 0x0303, 0x030C, 0x0318, 0x0319,
      0x0D0C, 0x0D0D, 0x1117, 0x0201, 0x0701, 0x1301, 0x4101] : List Word).all
      (fun w => decide (opcodeLength w = none)) = true := by decide

/-! One step of every instruction, from 95_test_vectors.md: the words stand at 0x0100. -/

/-- The state with `words` loaded from address 0x0100 on and PC there; no interrupt at this boundary. -/
def placed (words : List Word) (s : State) : State :=
  { (words.foldl (fun (p : State × Word) w => (p.1.loadWord p.2 w, p.2 + 1)) (s, 0x0100)).1 with
    pc := 0x0100, irqScript := [false] }

/-- The outcome is a next state with the property. -/
def nextIs (o : Out) (p : State → Bool) : Bool :=
  match o with
  | .next t => p t
  | _ => false

/-- Registers and memory of group V43. -/
def image : State :=
  [((0x0200 : Word), (0x0300 : Word)), (0x0210, 0x0410), (0x0230, 0x0430), (0x0300, 0x1234), (0x0310, 0x9ABC),
   (0x0330, 0x3333)].foldl (fun s c => s.loadWord c.1 c.2)
    { State.reset with ac := 0xAAAA, ix := 0x0010, iy := 0x0020, sp := 0x0030 }

/-- One step of `words` from `s` gives a state with the property. -/
def stepIs (words : List Word) (s : State) (p : State → Bool) : Bool := nextIs (step (placed words s)) p

theorem test_inc_wraps :
    stepIs [0x001A] { State.reset with ac := 0xFFFF }
      (fun t => t.ac == 0x0000 && t.pc == 0x0101) = true := by decide
theorem test_inc_arithmetic_overflow :
    stepIs [0x001A] { State.reset with ac := 0x7FFF, params := { Params.defaults with flagsAccUnary := .arithmetic } }
      (fun t => !t.cf && t.ovf) = true := by decide
theorem test_dec_wraps :
    stepIs [0x001B] { State.reset with ac := 0x0000 } (fun t => t.ac == 0xFFFF) = true := by decide
theorem test_dec_arithmetic_borrow :
    stepIs [0x001B] { State.reset with ac := 0x0000, params := { Params.defaults with flagsAccUnary := .arithmetic } }
      (fun t => t.cf && !t.ovf) = true := by decide
theorem test_com :
    stepIs [0x001C] { State.reset with ac := 0xA5A5 } (fun t => t.ac == 0x5A5A) = true := by decide
theorem test_neg :
    stepIs [0x001D] { State.reset with ac := 0x0001 } (fun t => t.ac == 0xFFFF) = true := by decide
theorem test_neg_arithmetic_of_8000 :
    stepIs [0x001D] { State.reset with ac := 0x8000, params := { Params.defaults with flagsAccUnary := .arithmetic } }
      (fun t => t.ac == 0x8000 && t.cf && t.ovf) = true := by decide
theorem test_set_keeps_flags :
    stepIs [0x001E] { State.reset with ac := 0x1234, cf := true }
      (fun t => t.ac == 0xFFFF && t.cf && !t.ovf) = true := by decide
theorem test_clr :
    stepIs [0x001F] { State.reset with ac := 0x1234 } (fun t => t.ac == 0x0000) = true := by decide
theorem test_shl :
    stepIs [0x0020] { State.reset with ac := 0x8001, ovf := true }
      (fun t => t.ac == 0x0002 && t.cf && t.ovf) = true := by decide
theorem test_shl_clears_carry :
    stepIs [0x0020] { State.reset with ac := 0x4000, cf := true }
      (fun t => t.ac == 0x8000 && !t.cf) = true := by decide
theorem test_lsr :
    stepIs [0x0021] { State.reset with ac := 0x8001 } (fun t => t.ac == 0x4000 && t.cf) = true := by decide
theorem test_asr_keeps_sign :
    stepIs [0x0022] { State.reset with ac := 0x8001 } (fun t => t.ac == 0xC000 && t.cf) = true := by decide
theorem test_asr_of_positive :
    stepIs [0x0022] { State.reset with ac := 0x7FFE, cf := true }
      (fun t => t.ac == 0x3FFF && !t.cf) = true := by decide
theorem test_rol_shifts_old_carry_in :
    stepIs [0x0023] { State.reset with ac := 0x0001, cf := true }
      (fun t => t.ac == 0x0003 && !t.cf) = true := by decide
theorem test_rol_out :
    stepIs [0x0023] { State.reset with ac := 0x8000 } (fun t => t.ac == 0x0000 && t.cf) = true := by decide
theorem test_ror_shifts_old_carry_in :
    stepIs [0x0024] { State.reset with ac := 0x0002, cf := true }
      (fun t => t.ac == 0x8001 && !t.cf) = true := by decide
theorem test_lsw :
    stepIs [0x0025] { State.reset with switchScript := [0xA5C3] }
      (fun t => t.ac == 0xA5C3 && t.ioLog.isEmpty) = true := by decide
theorem test_scf :
    stepIs [0x0026] { State.reset with ovf := true } (fun t => t.cf && t.ovf) = true := by decide
theorem test_ccf :
    stepIs [0x0027] { State.reset with cf := true, ovf := true }
      (fun t => !t.cf && t.ovf) = true := by decide
theorem test_bsw :
    stepIs [0x0045] { State.reset with ac := 0x12AB } (fun t => t.ac == 0xAB12) = true := by decide
theorem test_bsl :
    stepIs [0x0046] { State.reset with ac := 0x12AB } (fun t => t.ac == 0xAB00) = true := by decide
theorem test_bsr_does_not_extend_sign :
    stepIs [0x0047] { State.reset with ac := 0x8000 } (fun t => t.ac == 0x0080) = true := by decide
theorem test_psa :
    stepIs [0x0028] { State.reset with ac := 0xBEEF, sp := 0x8000 }
      (fun t => t.sp == 0x7FFF && t.mem.word 0x7FFF == 0xBEEF) = true := by decide
theorem test_psa_empty_descending :
    stepIs [0x0028]
      { State.reset with
        ac := 0xBEEF, sp := 0x8000, params := { Params.defaults with stackModel := .emptyDescending } }
      (fun t => t.sp == 0x7FFF && t.mem.word 0x8000 == 0xBEEF) = true := by decide
theorem test_poa :
    stepIs [0x0029] (({ State.reset with sp := 0xFFFF }).loadWord 0xFFFF 0x0042)
      (fun t => t.ac == 0x0042 && t.sp == 0x0000) = true := by decide
theorem test_psf :
    stepIs [0x002A] { State.reset with sp := 0x8000, cf := true }
      (fun t => t.sp == 0x7FFF && t.mem.loaded 0x7FFF) = true := by decide
/-- The word PSF and BRK push has CF and OVF at bits 0 and 1, whatever its other bits. -/
theorem test_flag_word (w : Word) (c v : Bool) :
    (putBit (putBit w 0 c) 1 v).getLsbD 0 = c ∧ (putBit (putBit w 0 c) 1 v).getLsbD 1 = v := by
  constructor <;> rw [getLsbD_putBit] <;> simp [getLsbD_putBit, -BitVec.getLsbD_eq_getElem]
theorem test_pof_ignores_other_bits :
    stepIs [0x002B] (({ State.reset with sp := 0x7FFF, cf := true, ovf := true }).loadWord 0x7FFF 0xFFFC)
      (fun t => !t.cf && !t.ovf && t.sp == 0x8000) = true := by decide
theorem test_inx_wraps :
    stepIs [0x0035] { State.reset with ix := 0xFFFF, cf := true }
      (fun t => t.ix == 0x0000 && t.cf) = true := by decide
theorem test_iny :
    stepIs [0x0036] { State.reset with iy := 0x00FF } (fun t => t.iy == 0x0100) = true := by decide
theorem test_ins :
    stepIs [0x0037] { State.reset with sp := 0x7FFF } (fun t => t.sp == 0x8000) = true := by decide
theorem test_dex_wraps :
    stepIs [0x0038] { State.reset with ix := 0x0000 } (fun t => t.ix == 0xFFFF) = true := by decide
theorem test_dey :
    stepIs [0x0039] { State.reset with iy := 0x0100 } (fun t => t.iy == 0x00FF) = true := by decide
theorem test_des :
    stepIs [0x003A] { State.reset with sp := 0x0000 } (fun t => t.sp == 0xFFFF) = true := by decide
theorem test_max :
    stepIs [0x003B] { State.reset with ac := 0x1234 }
      (fun t => t.ix == 0x1234 && t.ac == 0x1234) = true := by decide
theorem test_may :
    stepIs [0x003C] { State.reset with ac := 0x1234 } (fun t => t.iy == 0x1234) = true := by decide
theorem test_mas :
    stepIs [0x003D] { State.reset with ac := 0x8000 } (fun t => t.sp == 0x8000) = true := by decide
theorem test_mxa :
    stepIs [0x003E] { State.reset with ix := 0xABCD } (fun t => t.ac == 0xABCD) = true := by decide
theorem test_mya :
    stepIs [0x003F] { State.reset with iy := 0x00EF } (fun t => t.ac == 0x00EF) = true := by decide
theorem test_msa :
    stepIs [0x0040] { State.reset with sp := 0x7FFE } (fun t => t.ac == 0x7FFE) = true := by decide
theorem test_psx :
    stepIs [0x0041] { State.reset with ix := 0x1111, sp := 0x8000 }
      (fun t => t.sp == 0x7FFF && t.mem.word 0x7FFF == 0x1111) = true := by decide
theorem test_pox :
    stepIs [0x0042] (({ State.reset with sp := 0x7FFF }).loadWord 0x7FFF 0x1111)
      (fun t => t.ix == 0x1111 && t.sp == 0x8000) = true := by decide
theorem test_psy :
    stepIs [0x0043] { State.reset with iy := 0x2222, sp := 0x8000 }
      (fun t => t.sp == 0x7FFF && t.mem.word 0x7FFF == 0x2222) = true := by decide
theorem test_poy :
    stepIs [0x0044] (({ State.reset with sp := 0x7FFF }).loadWord 0x7FFF 0x2222)
      (fun t => t.iy == 0x2222 && t.sp == 0x8000) = true := by decide
theorem test_eni : stepIs [0x002C] State.reset (fun t => t.ie && t.pc == 0x0101) = true := by decide
theorem test_dii : stepIs [0x002D] { State.reset with ie := true } (fun t => !t.ie) = true := by decide
theorem test_rtn :
    stepIs [0x002E] (({ State.reset with sp := 0x7FFF }).loadWord 0x7FFF 0x0102)
      (fun t => t.pc == 0x0102 && t.sp == 0x8000) = true := by decide
theorem test_rti :
    stepIs [0x002F] ((({ State.reset with sp := 0x7FFE, ovf := true }).loadWord 0x7FFE 0x0001).loadWord 0x7FFF 0x0205)
      (fun t => t.pc == 0x0205 && t.sp == 0x8000 && t.cf && !t.ovf && t.ie) = true := by decide
theorem test_nop :
    stepIs [0x0030] { State.reset with ac := 0x1234 }
      (fun t => t.pc == 0x0101 && t.ac == 0x1234) = true := by decide
theorem test_brk_saves_next_address :
    stepIs [0x0048] { State.reset with sp := 0x8000, cf := true, ie := true }
      (fun t => t.pc == 0xFFFE && t.sp == 0x7FFE && !t.ie && t.mem.word 0x7FFF == 0x0101) = true := by decide
theorem test_brk_ignores_ie :
    stepIs [0x0048] { State.reset with sp := 0x8000 } (fun t => t.pc == 0xFFFE && t.mem.loaded 0x7FFE) = true := by
  decide
theorem test_hlt : stepIs [0x00FF] State.reset (fun t => t.halt && t.pc == 0x0101) = true := by decide
theorem test_lda_index_after_indirection :
    stepIs [0x1501, 0x0200] image (fun t => t.ac == 0x9ABC && t.pc == 0x0102) = true := by decide
theorem test_lda_post_increment_indexed :
    stepIs [0x1D01, 0x0200] image
      (fun t => t.ac == 0x9ABC && t.mem.word 0x0200 == 0x0301) = true := by decide
theorem test_lds_old_sp_forms_address :
    stepIs [0x3102, 0x0200] image (fun t => t.sp == 0x0430) = true := by decide
theorem test_sta_post_increment :
    stepIs [0x0D03, 0x0200] image
      (fun t => t.mem.word 0x0300 == 0xAAAA && t.mem.word 0x0200 == 0x0301) = true := by decide
theorem test_sta_onto_its_pointer :
    stepIs [0x0D03, 0x0200] (({ State.reset with ac := 0x5555 }).loadWord 0x0200 0x0200)
      (fun t => t.mem.word 0x0200 == 0x0201) = true := by decide
theorem test_sts : stepIs [0x3104, 0x0200] image (fun t => t.mem.word 0x0230 == 0x0030) = true := by decide
theorem test_add_signed_overflow :
    stepIs [0x0305, 0x0001] { State.reset with ac := 0x7FFF }
      (fun t => t.ac == 0x8000 && !t.cf && t.ovf) = true := by decide
theorem test_add_carry :
    stepIs [0x0305, 0x8000] { State.reset with ac := 0x8000 }
      (fun t => t.ac == 0x0000 && t.cf && t.ovf) = true := by decide
theorem test_adc_uses_carry :
    stepIs [0x0306, 0xFFFF] { State.reset with ac := 0xFFFF, cf := true }
      (fun t => t.ac == 0xFFFF && t.cf && !t.ovf) = true := by decide
theorem test_sub_ignores_carry :
    stepIs [0x0307, 0x0001] { State.reset with ac := 0x0001, cf := true }
      (fun t => t.ac == 0x0000 && !t.cf) = true := by decide
theorem test_sub_not_borrow :
    stepIs [0x0307, 0x0001] { State.reset with ac := 0x0000, params := { Params.defaults with subCarry := .notBorrow } }
      (fun t => t.ac == 0xFFFF && !t.cf && !t.ovf) = true := by decide
theorem test_sbc_borrows :
    stepIs [0x0308, 0xFFFF] { State.reset with ac := 0x0000, cf := true }
      (fun t => t.ac == 0x0000 && t.cf) = true := by decide
theorem test_sbc_signed_overflow :
    stepIs [0x0308, 0x0000] { State.reset with ac := 0x8000, cf := true }
      (fun t => t.ac == 0x7FFF && !t.cf && t.ovf) = true := by decide
theorem test_and :
    stepIs [0x0309, 0x0FF0] { State.reset with ac := 0xA5A5 } (fun t => t.ac == 0x05A0) = true := by decide
theorem test_ora :
    stepIs [0x030A, 0x0FF0] { State.reset with ac := 0xA5A5 } (fun t => t.ac == 0xAFF5) = true := by decide
theorem test_xor :
    stepIs [0x030B, 0xFFFF] { State.reset with ac := 0xA5A5 } (fun t => t.ac == 0x5A5A) = true := by decide
theorem test_isz_skips_two_words :
    stepIs [0x010C, 0x0200, 0x030E, 0x0400] ((State.reset).loadWord 0x0200 0xFFFF)
      (fun t => t.pc == 0x0104 && t.mem.word 0x0200 == 0x0000) = true := by decide
theorem test_isz_counts_without_skip :
    stepIs [0x1D0C, 0x0200] ((({ State.reset with ix := 0x0001 }).loadWord 0x0200 0x0300).loadWord 0x0301 0x0009)
      (fun t => t.pc == 0x0102 && t.mem.word 0x0301 == 0x000A && t.mem.word 0x0200 == 0x0301) = true := by decide
theorem test_dsz_skips_one_word :
    stepIs [0x010D, 0x0200, 0x0048] (({ State.reset with sp := 0x8000 }).loadWord 0x0200 0x0001)
      (fun t => t.pc == 0x0103 && t.sp == 0x8000) = true := by decide
theorem test_dsz_of_zero_does_not_skip :
    stepIs [0x010D, 0x0200, 0x0030] ((State.reset).loadWord 0x0200 0x0000)
      (fun t => t.pc == 0x0102 && t.mem.word 0x0200 == 0xFFFF) = true := by decide
theorem test_jmp_indirect_reads_twice :
    stepIs [0x050E, 0x0200] (((State.reset).loadWord 0x0200 0x0300).loadWord 0x0300 0x0400)
      (fun t => t.pc == 0x0400) = true := by decide
theorem test_joz_commits_post_increment_untaken :
    stepIs [0x0D0F, 0x0200] ((({ State.reset with ac := 0x0001 }).loadWord 0x0200 0x0300).loadWord 0x0300 0x0400)
      (fun t => t.pc == 0x0102 && t.mem.word 0x0200 == 0x0301) = true := by decide
theorem test_jnz :
    stepIs [0x0310, 0x0400] { State.reset with ac := 0x8000 } (fun t => t.pc == 0x0400) = true := by decide
theorem test_jpl_takes_zero :
    stepIs [0x0311, 0x0400] { State.reset with ac := 0x0000 } (fun t => t.pc == 0x0400) = true := by decide
theorem test_jmi_leaves_zero :
    stepIs [0x0312, 0x0400] { State.reset with ac := 0x0000 } (fun t => t.pc == 0x0102) = true := by decide
theorem test_jmi_takes_minus :
    stepIs [0x0312, 0x0400] { State.reset with ac := 0x8000 } (fun t => t.pc == 0x0400) = true := by decide
theorem test_joc :
    stepIs [0x0313, 0x0400] { State.reset with cf := true } (fun t => t.pc == 0x0400) = true := by decide
theorem test_jnc :
    stepIs [0x0314, 0x0400] { State.reset with cf := true } (fun t => t.pc == 0x0102) = true := by decide
theorem test_jov :
    stepIs [0x0315, 0x0400] { State.reset with ovf := true } (fun t => t.pc == 0x0400) = true := by decide
theorem test_jnv :
    stepIs [0x0316, 0x0400] { State.reset with ovf := true } (fun t => t.pc == 0x0102) = true := by decide
theorem test_csr_reads_target_before_push :
    stepIs [0x0117, 0x7FFF] (({ State.reset with sp := 0x8000 }).loadWord 0x7FFF 0x0400)
      (fun t => t.pc == 0x0400 && t.mem.word 0x7FFF == 0x0102) = true := by decide
theorem test_csr_post_increment_is_last :
    stepIs [0x0D17, 0x7FFF] ((({ State.reset with sp := 0x8000 }).loadWord 0x7FFF 0x0300).loadWord 0x0300 0x0400)
      (fun t => t.pc == 0x0400 && t.mem.word 0x7FFF == 0x0301) = true := by decide
theorem test_inp :
    stepIs [0x3D18, 0x0200] (({ State.reset with sp := 0x0002, portScript := [0x0042] }).loadWord 0x0200 0xFFFF)
      (fun t => t.ac == 0x0042 && t.ioLog == [.read 0x0001 0x0042] && t.mem.word 0x0200 == 0x0000) = true := by decide
theorem test_out :
    stepIs [0x1519, 0x0200] (({ State.reset with ac := 0x0001, ix := 0x0003 }).loadWord 0x0200 0x0100)
      (fun t => t.ioLog == [.write 0x0103 0x0001]) = true := by decide
theorem test_ldx_old_ix_forms_address :
    stepIs [0x1131, 0x0200] image (fun t => t.ix == 0x0410) = true := by decide
theorem test_ldy : stepIs [0x0332, 0xFFFF] State.reset (fun t => t.iy == 0xFFFF) = true := by decide
theorem test_stx : stepIs [0x1133, 0x0200] image (fun t => t.mem.word 0x0210 == 0x0010) = true := by decide
theorem test_sty : stepIs [0x3534, 0x0200] image (fun t => t.mem.word 0x0330 == 0x0020) = true := by decide

/-- V45: a skip over an undefined word faults after the write. -/
theorem test_skip_over_undefined_word :
    (match step (placed [0x010C, 0x0200, 0x0000] (State.reset.loadWord 0x0200 0xFFFF)) with
      | .fault (.undefinedOpcode w t) => w == 0x0000 && t.mem.word 0x0200 == 0x0000
      | _ => false) = true := by decide

/-- V60: interrupt entry, and the request left alone when IE = 0. -/
theorem test_interrupt_entry :
    nextIs (step { placed [0x0030] State.reset with ie := true, sp := 0x8000, cf := true, irqScript := [true] })
      (fun t => t.pc == 0xFFFE && t.mem.word 0x7FFF == 0x0100 && t.sp == 0x7FFE && !t.ie) = true := by decide

theorem test_masked_interrupt :
    nextIs (step { placed [0x0030] State.reset with irqScript := [true] }) (fun t => t.pc == 0x0101) = true := by
  decide

/-- R36: a store to `rom` is dropped. -/
theorem test_rom_store_dropped :
    stepIs [0x0103, 0x0200]
      (({ State.reset with ac := 0x5555, params := { Params.defaults with memMap := [⟨0x0200, 0x02FF, .rom⟩] } } :
        State).loadWord 0x0200 0x1234)
      (fun t => t.mem.word 0x0200 == 0x1234 && t.pc == 0x0102) = true := by decide

/-- S1, S6 and V70: times in nanoseconds. -/
theorem test_times :
    [(instrCost .set).map Cost.timeNs, (instrCost .brk).map Cost.timeNs,
      (stepCost (placed [0x010C, 0x0200, 0x0030] (State.reset.loadWord 0x0200 0xFFFF))).map Cost.timeNs] =
    [some 1750, some 4250, some 4500] := by decide

/-- S2: `(BASE+IX)` and `(IX+BASE)`. -/
theorem test_indexed_operand_order :
    assembleOperand (.roundSum (.base 0x0200) (.register .ix)) = some (.indexed .ix, 0x0200) ∧
    assembleOperand (.roundSum (.register .ix) (.base 0x0200)) = some (.indexed .ix, 0x0200) := by decide

/-- V71: the state after reset, and its first step: nothing is loaded. -/
theorem test_reset : State.reset.pc = 0x0000 ∧ State.reset.ie = false ∧ State.reset.halt = false := by decide

theorem test_first_step_finds_nothing_loaded :
    (match step State.reset with
      | .fault (.unloadedFetch a _) => a == 0x0000
      | _ => false) = true := by decide

/-- The host's two questions, on one word: the decoder's answer and the first step. -/
theorem test_fetch_word : decodeTableWord 32 0x02000305 = some (.add .immediate 0x0200) ∧
    nextIs (step (State.reset.withFetchWord 32 0x02000305)) (fun t => t.ac == 0x0200 && t.pc == 0x0002) = true := by
  decide

/-! Witnesses: states and operands that meet the hypotheses of the statements. -/

/-- A state with a stack, loaded words and room at 0x0100; every address is `ram`. -/
def world : State :=
  { placed [0x0030, 0x0030, 0x0030] image with sp := 0x8000, cf := true, irqScript := [false] }

/-- `world` with other parameters. -/
def worldWith (p : Params) : State := { world with params := p }

/-- 0x0200 to 0x02FF is `rom` and 0x0300 on is `absent`. -/
def mapped : Params := { Params.defaults with memMap := [⟨0x0200, 0x02FF, .rom⟩, ⟨0x0300, 0xFFFF, .absent⟩] }

theorem witness_DecodeInvertsEncode : (Instr.sty (.postIncIndexed .sp) 0xFFFF).wf = true ∧ Instr.hlt.wf = true := by
  decide

theorem witness_EncodeInvertsDecode : decode [0x3D34, 0xFFFF, 0x0001] =
    .ok (.sty (.postIncIndexed .sp) 0xFFFF, [0x0001]) := rfl

theorem witness_LengthIsOnePlusBitEight : opcodeLength 0x001A = some 1 ∧ opcodeLength 0x3D34 = some 2 ∧
    (Instr.sty (.postIncIndexed .sp) 0).wf = true ∧ (Instr.sty (.postIncIndexed .sp) 0).opcodeWord = 0x3D34 := by
  decide

theorem witness_FourHundredTwoWordsAreDefined : opcodeLength 0x0000 = none ∧ opcodeLength 0xFFFF = none := by decide

theorem witness_ModeBytesNameTheForms : Instr.bsw.operand = none ∧ (opcodeLength 0x3D34).isSome = true ∧
    modeByte 0x3D34 ≠ 0x00 := by decide

theorem witness_ResolvePerForm : (∃ p t, world.readWord 0x0200 = (p, t)) ∧
    ∃ p t, (worldWith mapped).readWord 0xFFFF = (p, t) := ⟨⟨_, _, rfl⟩, _, _, rfl⟩

theorem witness_MemoryReadsWhatWasWritten :
    kindAt mapped 0x01FF = .ram ∧ (0x0200 : Word) ≠ 0x01FF ∧ kindAt mapped 0x0200 ≠ .absent ∧
    kindAt mapped 0x0200 ≠ .ram ∧ kindAt mapped 0x0300 ≠ .ram ∧ kindAt world.params 0x0000 = .ram ∧
    kindAt world.params 0xFFFF = .ram := by decide

theorem witness_FetchSeesStoredWord : kindAt mapped 0x01FF = .ram := by decide

theorem witness_PopAfterPushReturnsTheWord :
    (worldWith Params.defaults).params.stackModel = .fullDescending ∧
    (worldWith { Params.defaults with stackModel := .emptyDescending }).params.stackModel = .emptyDescending ∧
    (worldWith { Params.defaults with stackModel := .fullAscending }).params.stackModel = .fullAscending ∧
    (worldWith { Params.defaults with stackModel := .emptyAscending }).params.stackModel = .emptyAscending ∧
    kindAt world.params world.popSlot ≠ .absent ∧ kindAt world.params world.pushSlot = .ram ∧
    kindAt State.reset.params State.reset.pushSlot = .ram := by decide

/-- The states of a run of ROLs from `world`. -/
def rolled : Nat → State
  | 0 => world
  | n + 1 =>
    { rolled n with
      cf := (rolled n).ac.getLsbD 15
      ac := (rolled n).ac.extractLsb' 0 15 ++ BitVec.ofBool (rolled n).cf
      pc := (rolled n).pc + 1 }

theorem witness_RotationIsThroughCarry : ∀ n, n < 17 → exec .rol (rolled n) = .next (rolled (n + 1)) :=
  fun _ _ => rfl

theorem witness_IncDecNegResults :
    (worldWith { Params.defaults with flagsAccUnary := .unchanged }).params.flagsAccUnary = .unchanged ∧
    (worldWith { Params.defaults with flagsAccUnary := .arithmetic }).params.flagsAccUnary = .arithmetic := by decide

/-- Also for LogicResults. -/
theorem witness_ComInvertsEveryBit :
    (worldWith { Params.defaults with flagsLogic := .unchanged }).params.flagsLogic = .unchanged ∧
    ∃ t u, exec .com world = .next t ∧ exec .com t = .next u := ⟨rfl, _, _, rfl, rfl⟩

theorem witness_LswLoadsTheSwitches : ({ world with switchScript := [0xA5C3] } : State).switchScript = 0xA5C3 :: [] := rfl

/-- Also for RtnPopsThePc and the second part of FlagRegisterPushAndPop. -/
theorem witness_PopsLoadTheRegister : kindAt world.params world.popSlot ≠ .absent ∧
    kindAt State.reset.params State.reset.popSlot ≠ .absent := by decide

theorem witness_FlagRegisterPushAndPop : world.params.frCfBit ≠ world.params.frOvfBit := by decide

theorem witness_PofAfterPsfRestoresTheFlags :
    world.params.frCfBit ≠ world.params.frOvfBit ∧ kindAt world.params world.pushSlot = .ram ∧
    ∃ t h : State, exec .psf world = .next t ∧ h.sp = t.sp ∧ h.params = t.params ∧
      h.mem.word world.pushSlot = t.mem.word world.pushSlot ∧ h.cf ≠ t.cf :=
  ⟨by decide, by decide, _, { world.frPack.2.push world.frPack.1 with cf := false }, rfl, rfl, rfl, rfl, by decide⟩

/-- Also for the flags of IszAndDszCountAndSkip. -/
theorem witness_RegisterStepsByOne : world.params.flagsStep = .unchanged := by decide

theorem witness_HltEndsTheRun : acceptedParams world.params = true ∧ (∃ t, exec .hlt world = .next t) ∧
    step { world with halt := true } = .fault .halted := ⟨by decide, ⟨_, rfl⟩, rfl⟩

theorem witness_TrapEntryChangesOnlyItsOwn :
    world.params.trapEntryMode = .direct ∧ world.params.stackModel = .fullDescending ∧
    (worldWith { Params.defaults with stackModel := .emptyAscending }).params.stackModel = .emptyAscending ∧
    (worldWith { Params.defaults with trapEntryMode := .vectored }).params.trapEntryMode = .vectored ∧
    kindAt world.params 0xFFFE ≠ .absent ∧ kindAt mapped 0x0200 ≠ .ram ∧
    frameSlots world world.params.trapFrame world.sp = [0x7FFF, 0x7FFE] ∧
    frameSlots world [.pc, .fr] 0x0001 = [0x0000, 0xFFFF] ∧ kindAt world.params 0x7FFF = .ram := by decide

theorem witness_DefaultTrapEntry : world.params.trapFrame = [.pc, .fr] ∧
    world.params.stackModel = .fullDescending ∧ world.params.trapEntryMode = .direct ∧
    world.params.frCfBit ≠ world.params.frOvfBit := by decide

theorem witness_RtiPopsTheFrame : FrameItem.pc ∈ world.params.trapFrame ∧ FrameItem.ac ∉ world.params.trapFrame ∧
    FrameItem.ix ∉ world.params.trapFrame ∧ FrameItem.iy ∉ world.params.trapFrame ∧
    FrameItem.fr ∉ (worldWith { Params.defaults with trapFrame := [.pc] }).params.trapFrame ∧
    world.params.trapFrame = [.pc, .fr] ∧ world.params.stackModel = .fullDescending ∧
    kindAt world.params world.sp ≠ .absent ∧ kindAt world.params (world.sp + 1) ≠ .absent ∧
    FrameItem.pc ∉ (worldWith { Params.defaults with trapFrame := [.fr] }).params.trapFrame := by decide

/-- The handler has also stored a word outside the frame. -/
theorem witness_RtiUndoesTrapEntry : acceptedParams world.params = true ∧
    ∃ t h : State, exec .brk world = .next t ∧
      h = { t.loadWord 0x0300 0x5555 with ac := 0x0001, cf := false, pc := 0x0400 } ∧
      h.params = t.params ∧ h.sp = t.sp ∧
      ∀ a ∈ frameSlots world world.params.trapFrame world.sp,
        kindAt world.params a = .ram ∧ h.mem.word a = t.mem.word a :=
  ⟨by decide, world.trapEnter (world.pc + 1) 0xFFFE, _, rfl, rfl, rfl, rfl, fun a ha =>
    ⟨rfl, Memory.word_putWord_other _ _ (by rintro rfl; revert ha; decide)⟩⟩

theorem witness_LdaReadsTheOperandOfItsForm : kindAt world.params 0x0200 ≠ .absent ∧
    kindAt world.params (world.mem.word 0x0200) ≠ .absent ∧
    kindAt world.params (world.mem.word 0x0200 + world.index .ix) ≠ .absent ∧
    kindAt world.params (0x0200 + world.index .iy) ≠ .absent := by decide

/-- Also for InpReadsThePort and OutWritesThePort. -/
theorem witness_StoresWriteTheirRegister : Form.postIncIndexed .sp ≠ Form.immediate := by decide

theorem witness_PostIncrementIsCommittedLast :
    (kindAt world.params 0x0200 = .ram ∧ (world.loadWord 0x0200 0x0200).mem.word 0x0200 = 0x0200) ∧
    (let s := placed [0x0D01, 0x0101] State.reset
     acceptedParams s.params = true ∧ s.halt = false ∧ s.ie = false ∧ kindAt s.params s.pc ≠ .absent ∧
     s.mem.loaded s.pc = true ∧ kindAt s.params (s.pc + 1) = .ram ∧ s.mem.loaded (s.pc + 1) = true ∧
     s.mem.word s.pc = 0x0D01 ∧ s.mem.word (s.pc + 1) = s.pc + 1) := by decide

/-- Counts that reach zero before a one-word, a two-word, an undefined and an unloaded word, and one that
does not. -/
theorem witness_IszAndDszCountAndSkip_isz : FormSet.f11.admits .direct = true ∧
    FormSet.f11.admits .immediate = false ∧ FormSet.f11.admits .postInc = false ∧
    (let s := placed [0x010C, 0x0200, 0x030E] (State.reset.loadWord 0x0200 0xFFFF)
     kindAt s.params 0x0200 ≠ .absent ∧ s.mem.word 0x0200 + 1 = 0 ∧ s.mem.word 0x0101 + 1 ≠ 0 ∧
     s.mem.loaded (s.pc + 2) = true ∧ opcodeLength (s.mem.word (s.pc + 2)) = some 2 ∧
     opcodeLength 0x0030 = some 1 ∧ opcodeLength 0x0130 = none ∧
     (placed [0x010C, 0x0200] State.reset).mem.loaded 0x0102 = false) := by decide

theorem witness_IszAndDszCountAndSkip_dsz :
    (let s := placed [0x010D, 0x0200, 0x030E] (State.reset.loadWord 0x0200 0x0001)
     kindAt s.params 0x0200 ≠ .absent ∧ s.mem.word 0x0200 - 1 = 0 ∧ s.mem.word 0x0101 - 1 ≠ 0 ∧
     s.mem.loaded (s.pc + 2) = true ∧ opcodeLength (s.mem.word (s.pc + 2)) = some 2 ∧
     opcodeLength 0x0030 = some 1 ∧ opcodeLength 0x0130 = none ∧
     (placed [0x010D, 0x0200] State.reset).mem.loaded 0x0102 = false) := by decide

theorem witness_CsrPushesTheReturnAddress : FormSet.f4.admits .postInc = true ∧
    FormSet.f4.admits (.indexed .ix) = false := by decide

theorem witness_RtnUndoesCsr : kindAt world.params world.pushSlot = .ram ∧
    ∃ t : State, exec (.csr .immediate 0x0400) world = .next t := ⟨by decide, _, rfl⟩

theorem witness_InpReadsThePort : ({ world with portScript := [0x0042] } : State).portScript = 0x0042 :: [] := rfl

theorem witness_OneEventPerInputOrOutput : (∃ t, exec (.inp .direct 0x0002) world = .next t) ∧
    (∃ t, exec (.out .direct 0x0002) world = .next t) ∧ ∃ t, exec .nop world = .next t :=
  ⟨⟨_, rfl⟩, ⟨_, rfl⟩, ⟨_, rfl⟩⟩

theorem fetches_world : Fetches world := ⟨by decide, by decide, .inl (by decide)⟩

/-- Also with interrupts enabled and none requested. -/
theorem witness_StepRunsTheDecodedInstruction :
    (Fetches world ∧ Readable world world.pc ∧
      decode [world.mem.word world.pc, world.mem.word (world.pc + 1)] = .ok (.nop, [0x0030])) ∧
    let s := placed [0x0301, 0xFFFF] { State.reset with ie := true }
    Fetches s ∧ Readable s s.pc ∧ Readable s (s.pc + 1) ∧
      decode [s.mem.word s.pc, s.mem.word (s.pc + 1)] = .ok (.lda .immediate 0xFFFF, []) :=
  ⟨⟨fetches_world, ⟨by decide, by decide⟩, rfl⟩, ⟨by decide, by decide, .inr (by decide)⟩,
    ⟨by decide, by decide⟩, ⟨by decide, by decide⟩, rfl⟩

theorem witness_UndefinedFetchFaults :
    (let s := placed [0x0000] State.reset
     Fetches s ∧ Readable s s.pc ∧ opcodeLength (s.mem.word s.pc) = none) ∧
    (Fetches State.reset ∧ kindAt State.reset.params State.reset.pc ≠ .absent ∧
      State.reset.mem.loaded State.reset.pc = false) ∧
    (let s := placed [0x0301] State.reset
     Fetches s ∧ Readable s s.pc ∧ opcodeLength (s.mem.word s.pc) = some 2 ∧
      kindAt s.params (s.pc + 1) ≠ .absent ∧ s.mem.loaded (s.pc + 1) = false) :=
  ⟨⟨⟨by decide, by decide, .inl (by decide)⟩, ⟨by decide, by decide⟩, by decide⟩,
    ⟨⟨by decide, by decide, .inl (by decide)⟩, by decide, by decide⟩,
    ⟨by decide, by decide, .inl (by decide)⟩, ⟨by decide, by decide⟩, by decide, by decide, by decide⟩

theorem witness_InterruptIsTakenAtTheBoundary :
    TakesInterrupt { world with ie := true, irqScript := [true] } :=
  ⟨by decide, by decide, by decide, by decide⟩

theorem witness_EnablesActAtOnce :
    let s : State := { world with irqScript := true :: [] }
    acceptedParams s.params = true ∧ s.halt = false ∧ s.irqScript = true :: [] ∧
    (∃ t, exec .eni s = .next t) ∧ (∃ t, exec .rti s = .next t) ∧
    ∃ t, exec .dii s = .next t ∧ Readable t t.pc ∧
      decode [t.mem.word t.pc, t.mem.word (t.pc + 1)] = .ok (.nop, [0x0030]) :=
  ⟨by decide, by decide, rfl, ⟨_, rfl⟩, ⟨_, rfl⟩, _, rfl, ⟨by decide, by decide⟩, rfl⟩

theorem witness_EveryInstructionCompletesButForSkips : (Instr.csr .postInc 0x0200).wf = true ∧
    acceptedParams world.params = true ∧ FormSet.f11.admits (.postIncIndexed .sp) = true := by decide

/-- Also for FlagsAreWrittenOnlyByTheirWriters and ControlBitsAreWrittenOnlyByTheirWriters. -/
theorem witness_RegistersAreWrittenOnlyByTheirWriters : (∃ t, exec .nop world = .next t) ∧
    writesAc world.params .nop = false ∧ writesIx world.params .nop = false ∧ writesIy world.params .nop = false ∧
    writesSp .nop = false ∧ writesCf world.params .nop = false ∧ writesOvf world.params .nop = false :=
  ⟨⟨_, rfl⟩, rfl, rfl, rfl, rfl, rfl, rfl⟩

theorem witness_MemoryIsWrittenOnlyByItsWriters : writesMem (.lda .direct 0x0200) = false ∧
    (∃ t, exec (.lda .direct 0x0200) world = .next t) ∧ (∃ t, step (worldWith mapped) = .next t) ∧
    kindAt mapped 0x0200 ≠ .ram ∧ kindAt mapped 0xFFFF ≠ .ram :=
  ⟨rfl, ⟨_, rfl⟩, ⟨_, rfl⟩, by decide, by decide⟩

theorem witness_StepKeepsTheInvariant : Inv State.reset ∧
    (∃ s t, Inv s ∧ step s = .next t) :=
  have h : Inv State.reset := ⟨rfl, fun _ => rfl, by decide⟩
  ⟨h, { State.reset with ie := true, irqScript := [true] }, _, ⟨rfl, fun _ => rfl, by decide⟩, rfl⟩

theorem witness_InvariantHoldsAtReset : acceptedParams Params.defaults = true ∧ acceptedParams mapped = true ∧
    acceptedParams { Params.defaults with frCfBit := 15, frOvfBit := 0, trapFrame := [.iy, .pc] } = true := by decide

theorem witness_CycleTimes : (Cost.mk 6 1).extended ≤ (Cost.mk 6 1).cycles ∧
    (Cost.mk 1 1).extended ≤ (Cost.mk 1 1).cycles := by decide

/-- A skip, an ISZ that does not skip, and another instruction. -/
theorem witness_CycleCountsAsPrinted :
    (∃ t u, boundary (placed [0x010C, 0x0200, 0x030E] (State.reset.loadWord 0x0200 0xFFFF)) =
        .run (.isz .direct 0x0200) t ∧ exec (.isz .direct 0x0200) t = .next u ∧ u.pc ≠ t.pc + 2) ∧
    (∃ t u, boundary (placed [0x010C, 0x0200] (State.reset.loadWord 0x0200 0x0000)) =
        .run (.isz .direct 0x0200) t ∧ exec (.isz .direct 0x0200) t = .next u ∧ u.pc = t.pc + 2) ∧
    ∃ t u, boundary world = .run .nop t ∧ exec .nop t = .next u :=
  ⟨⟨_, _, rfl, rfl, by decide⟩, ⟨_, _, rfl, rfl, by decide⟩, _, _, rfl, rfl⟩

theorem witness_ExtendedCountsTheAccesses : (Instr.dsz .direct 0x0200).wf = true ∧
    countUnexplained (.dsz .direct 0x0200) = false := by decide

end Sys2Proof.Tests
end

