-- ==== Sys2Proof/Proofs/Encoding.lean ====
section
/-! PROOFS. Mode bytes, written operands and operand resolution (30_encoding.md): the facts about the decoder's
tables, the assembler's shapes and `Resolve`, and the statements settled with them. -/

namespace Sys2Proof.Encoding

open Sys2Proof.Machine Sys2Proof.Claims

/-! The mode byte and its table (R51, R52). -/

@[simp] theorem modeByte_append (mode op : Byte) : modeByte (mode ++ op) = mode :=
  BitVec.extractLsb'_append_eq_left

theorem opcodeWord_of_no_operand {i : Instr} (h : i.operand = none) :
    i.opcodeWord = (0x00 : Byte) ++ i.op := by
  simp only [Instr.opcodeWord, h]

theorem formOfMode_mode (f : Form) : formOfMode f.mode = some f := by
  cases f with
  | immediate | direct | indirect | postInc => rfl
  | indexed x | indirectIndexed x | postIncIndexed x => cases x <;> rfl

/-- Each row of the decoder's table holds the encoder's byte for its form. -/
theorem mode_of_mem_formRows : ∀ row ∈ formRows, row.1 = row.2.mode := by decide

/-- The decoder's table and the encoder's mode bytes are inverse to each other. -/
theorem formOfMode_eq_some_iff {b : Byte} {f : Form} : formOfMode b = some f ↔ b = f.mode := by
  constructor
  · intro h
    obtain ⟨before, after, hrows, -⟩ := List.lookup_eq_some_iff.mp h
    exact mode_of_mem_formRows (b, f) (by simp [hrows])
  · rintro rfl
    exact formOfMode_mode f

theorem mem_allForms (f : Form) : f ∈ allForms := by
  cases f with
  | immediate | direct | indirect | postInc => decide
  | indexed x | indirectIndexed x | postIncIndexed x => cases x <;> decide

/-- R56: a word outside the implied page is undefined unless its mode byte is in the table of forms. -/
theorem opcodeLength_of_formOfMode_none {w : Word} (hmode : modeByte w ≠ 0x00)
    (hform : formOfMode (modeByte w) = none) : opcodeLength w = none := by
  simp only [opcodeLength, opcodeMeaning, if_neg hmode, hform]

theorem exists_mode_of_defined {w : Word} (hdef : (opcodeLength w).isSome = true)
    (hmode : modeByte w ≠ 0x00) : ∃ f : Form, modeByte w = f.mode := by
  cases hform : formOfMode (modeByte w) with
  | none => simp [opcodeLength_of_formOfMode_none hmode hform] at hdef
  | some f => exact ⟨f, formOfMode_eq_some_iff.mp hform⟩

/-- Settles O1: the byte table is inverted row by row, and a defined word outside the implied page was found
through it. -/
theorem modeBytesNameTheForms : Obligations.ModeBytesNameTheForms := by
  refine ⟨fun i hi => ?_, rfl, mem_allForms, fun _ _ => formOfMode_eq_some_iff,
    fun _ => exists_mode_of_defined⟩
  rw [opcodeWord_of_no_operand hi, modeByte_append]

/-! Written operands (R71, R72). -/

theorem indexedParts_comm (a b : Addend) : indexedParts a b = indexedParts b a := by
  cases a <;> cases b <;> rfl

/-- R72, for any written operand, also one that assembles to nothing. -/
theorem assembleOperand_swapped (o : WrittenOperand) : assembleOperand o.swapped = assembleOperand o := by
  cases o with
  | bare | round | square | squareInc => rfl
  | roundSum a b | squareSum a b | squareIncSum a b =>
    simp only [WrittenOperand.swapped, assembleOperand, indexedParts_comm b a]

theorem assembleOperand_writeOperand (f : Form) (m : Word) :
    assembleOperand (writeOperand f m) = some (f, m) := by
  cases f <;> rfl

theorem encode_add_indexed_ix (m : Word) : encode (.add (.indexed .ix) m) = [0x1105, m] := by
  have hword : (0x11 : Byte) ++ (0x05 : Byte) = (0x1105 : Word) := by decide
  simp only [encode, Instr.operand, Instr.opcodeWord, Form.mode, Instr.op, hword]

/-- Settles O7: exchanging the parts never changes what an operand assembles to. -/
theorem indexedOperandPartsInAnyOrder : Obligations.IndexedOperandPartsInAnyOrder := by
  refine ⟨fun f m => ⟨assembleOperand_writeOperand f m, ?_⟩, fun base => ?_⟩
  · rw [assembleOperand_swapped, assembleOperand_writeOperand]
  · have hsum : assembleOperand (.roundSum (.base base) (.register .ix)) = some (.indexed .ix, base) :=
      assembleOperand_writeOperand (.indexed .ix) base
    have hswap : assembleOperand (.roundSum (.register .ix) (.base base)) = some (.indexed .ix, base) :=
      (assembleOperand_swapped (.roundSum (.base base) (.register .ix))).trans hsum
    simp only [hsum, hswap, Option.map_some, encode_add_indexed_ix, and_self]

/-! What each form resolves to (R61 to R67). -/

section Resolve

variable (s : State) (m : Word)

@[simp] theorem resolve_immediate : resolve .immediate m s = (⟨none, none⟩, s) := rfl

@[simp] theorem resolve_direct : resolve .direct m s = (⟨some m, none⟩, s) := rfl

@[simp] theorem resolve_indexed (x : Index) :
    resolve (.indexed x) m s = (⟨some (m + s.index x), none⟩, s) := rfl

@[simp] theorem index_ix : s.index .ix = s.ix := rfl

@[simp] theorem index_iy : s.index .iy = s.iy := rfl

@[simp] theorem index_sp : s.index .sp = s.sp := rfl

@[simp] theorem value_of_no_address (p : Option Word) : Operand.value ⟨none, p⟩ m s = (m, s) := rfl

@[simp] theorem value_of_address (ea : Word) (p : Option Word) :
    Operand.value ⟨some ea, p⟩ m s = s.readWord ea := rfl

@[simp] theorem postInc_of_no_pointer (ea : Option Word) : Operand.postInc ⟨ea, none⟩ m s = s := rfl

@[simp] theorem postInc_of_pointer (ea : Option Word) (p : Word) :
    Operand.postInc ⟨ea, some p⟩ m s = s.writeWord m (p + 1) := rfl

variable {s m} {p : Word} {t : State} (hread : s.readWord m = (p, t))
include hread

theorem resolve_indirect : resolve .indirect m s = (⟨some p, none⟩, t) := by
  simp only [resolve, hread]

/-- The index is that of the state before the pointer is read (R68). -/
theorem resolve_indirectIndexed (x : Index) :
    resolve (.indirectIndexed x) m s = (⟨some (p + s.index x), none⟩, t) := by
  simp only [resolve, hread]

theorem resolve_postInc : resolve .postInc m s = (⟨some p, some p⟩, t) := by
  simp only [resolve, hread]

theorem resolve_postIncIndexed (x : Index) :
    resolve (.postIncIndexed x) m s = (⟨some (p + s.index x), some p⟩, t) := by
  simp only [resolve, hread]

end Resolve

/-- Settles O8: the equations of the forms that read no pointer, of those that read one, and of the datum and
the deferred update. -/
theorem resolvePerForm : Obligations.ResolvePerForm := by
  intro m s
  exact ⟨resolve_immediate s m, resolve_direct s m, resolve_indexed s m,
    fun _ _ hread => ⟨resolve_indirect hread, resolve_indirectIndexed hread, resolve_postInc hread,
      resolve_postIncIndexed hread⟩,
    value_of_no_address s m, value_of_address s m, postInc_of_no_pointer s m, postInc_of_pointer s m,
    index_ix s, index_iy s, index_sp s⟩

end Sys2Proof.Encoding
end

