-- ==== Sys2Proof/Proofs/Timing.lean ====
section
/-! PROOFS. Cycle counts and times (70_reset_and_hazards.md R240 to R242): what a cost takes in nanoseconds, the
count of each kind of instruction, when a step pays for a skip, and the statements settled with them. -/

namespace Sys2Proof.Timing

open Sys2Proof.Machine Sys2Proof.Claims

/-! Times (R240). -/

/-- `time(N, E)` with the two cycle lengths of R4 put in. -/
theorem timeNs_eq (c : Cost) : c.timeNs = (c.cycles - c.extended) * 250 + c.extended * 500 := rfl

/-- An extended cycle counts as two standard ones when the extended cycles are among the N. -/
theorem timeNs_of_extended_le {c : Cost} (h : c.extended ≤ c.cycles) :
    c.timeNs = (c.cycles + c.extended) * 250 := by
  rw [timeNs_eq]
  omega

/-- Settles O58: the formula, its short form, and the row of SET. -/
theorem cycleTimes : Obligations.CycleTimes :=
  ⟨fun c => ⟨timeNs_eq c, timeNs_of_extended_le⟩, rfl, rfl⟩

/-! The count of each two-word instruction in a form (R242): that of its kind, and none in a form R55 does not
list. -/

section Columns

variable {mk : Form → Word → Instr} (f : Form) (m : Word)

theorem instrCost_load (h : mk ∈ [.lda, .lds, .ldx, .ldy]) : instrCost (mk f m) = some (loadCost f) := by
  fin_cases h <;> rfl

theorem instrCost_store (h : mk ∈ [.sta, .sts, .stx, .sty, .inp, .out]) :
    instrCost (mk f m) = if FormSet.f12.admits f then some (formCost ⟨7, 3⟩ f) else none := by
  fin_cases h <;> rfl

theorem instrCost_arith (h : mk ∈ [.add, .adc, .sub, .sbc, .and, .ora, .xor, .jmp]) :
    instrCost (mk f m) = some (arithCost f) := by
  fin_cases h <;> rfl

theorem instrCost_branch (h : mk ∈ [.joz, .jnz, .jpl, .jmi, .joc, .jnc, .jov, .jnv]) :
    instrCost (mk f m) = some (branchCost f) := by
  fin_cases h <;> rfl

theorem instrCost_call :
    instrCost (.csr f m) = if FormSet.f4.admits f then some (callCost f) else none := rfl

theorem instrCost_count (h : mk ∈ [.isz, .dsz]) :
    instrCost (mk f m) = if FormSet.f11.admits f then some (countCost f) else none := by
  fin_cases h <;> rfl

/-- The printed column of an instruction is that of its kind. -/
theorem costs_of_forms {m : Word} {cost : Form → Option Cost} (h : ∀ f, instrCost (mk f m) = cost f) :
    allForms.map (fun f => instrCost (mk f m)) = allForms.map cost :=
  List.map_congr_left fun f _ => h f

end Columns

/-! The price of a skip (R242). -/

theorem stepCost_of_run {s t : State} {i : Instr} (h : boundary s = .run i t) :
    stepCost s = (instrCost i).map fun c => if skipTaken i t then c.plus skippedCost else c := by
  simp only [stepCost, h]

/-- An instruction that runs to its end has skipped exactly when it is ISZ or DSZ and PC is not at the next
instruction. -/
theorem skipTaken_iff {i : Instr} {t u : State} (h : exec i t = .next u) :
    skipTaken i t = true ↔ (∃ f m, i = .isz f m ∨ i = .dsz f m) ∧ u.pc ≠ t.pc + 2 := by
  by_cases hi : ∃ f m, i = .isz f m ∨ i = .dsz f m
  · obtain ⟨f, m, rfl | rfl⟩ := hi <;> simp [skipTaken, h]
  · have hno : skipTaken i t = false := by
      unfold skipTaken
      split
      case h_1 f m _ _ => exact absurd ⟨f, m, .inl rfl⟩ hi
      case h_2 f m _ _ => exact absurd ⟨f, m, .inr rfl⟩ hi
      case h_3 => rfl
    simp only [hno, Bool.false_eq_true, hi, false_and]

section Step

variable {s t : State} {i : Instr} (hrun : boundary s = .run i t)
include hrun

theorem stepCost_of_skip (hskip : skipTaken i t = true) :
    stepCost s = (instrCost i).map fun c => ⟨c.cycles + 4, c.extended + 1⟩ := by
  simp only [stepCost_of_run hrun, hskip, if_true, Cost.plus, skippedCost]

theorem stepCost_of_no_skip (hskip : skipTaken i t = false) : stepCost s = instrCost i := by
  simp only [stepCost_of_run hrun, hskip, Bool.false_eq_true, if_false, Option.map_id']

end Step

/-- Settles O59: the one-word table is a finite list, the two-word table is read kind by kind off the column
of its kind, and a step pays 4 (1) more exactly when its instruction skipped. -/
theorem cycleCountsAsPrinted : Obligations.CycleCountsAsPrinted := by
  refine ⟨by decide, by decide, by decide, by decide, rfl, rfl, rfl, rfl, rfl,
    fun _ hmk m => costs_of_forms (instrCost_load · m hmk),
    fun _ hmk m => costs_of_forms (instrCost_store · m hmk),
    fun _ hmk m => costs_of_forms (instrCost_arith · m hmk),
    fun _ hmk m => costs_of_forms (instrCost_branch · m hmk),
    fun m => costs_of_forms (instrCost_call · m),
    fun _ hmk m => costs_of_forms (instrCost_count · m hmk),
    fun s t u i hrun hexec => ⟨fun hcount hpc => ?_, fun hother => ?_⟩⟩
  · exact stepCost_of_skip hrun ((skipTaken_iff hexec).mpr ⟨hcount, hpc⟩)
  · refine stepCost_of_no_skip hrun (Bool.eq_false_iff.mpr fun hskip => ?_)
    obtain ⟨⟨f, m, hcount⟩, hpc⟩ := (skipTaken_iff hexec).mp hskip
    rcases hother with hnot | hnext
    · exact hcount.elim (hnot f m).1 (hnot f m).2
    · exact hpc hnext

end Sys2Proof.Timing
end

/-! PROOFS. The decoder and the encoder (30_encoding.md R50 to R57): what the two tables of R54 hold, what an
opcode word means and which words mean something, and the statements settled with them. The lemmas on spelling
at the end serve the statements on single instructions. -/

namespace Sys2Proof.Decoding

open Sys2Proof.Machine Sys2Proof.Claims Sys2Proof.Encoding

/-! The bytes of an opcode word (R51). -/

@[simp] theorem opByte_append (mode op : Byte) : opByte (mode ++ op) = op :=
  BitVec.extractLsb'_append_eq_right

/-- A word is its two bytes. -/
theorem eq_append_of_bytes {w : Word} {mode op : Byte} (hmode : modeByte w = mode) (hop : opByte w = op) :
    w = mode ++ op := by
  rw [← hmode, ← hop, modeByte_append_opByte]

theorem append_inj {mode op mode' op' : Byte} (h : (mode ++ op : Word) = mode' ++ op') :
    mode = mode' ∧ op = op' :=
  ⟨by simpa using congrArg modeByte h, by simpa using congrArg opByte h⟩

theorem mode_ne_zero (f : Form) : f.mode ≠ 0x00 := by
  cases f with
  | immediate | direct | indirect | postInc => decide
  | indexed x | indirectIndexed x | postIncIndexed x => cases x <;> decide

theorem opcodeWord_of_operand {i : Instr} {f : Form} {m : Word} (h : i.operand = some (f, m)) :
    i.opcodeWord = f.mode ++ i.op := by
  simp only [Instr.opcodeWord, h]

theorem encode_of_no_operand {i : Instr} (h : i.operand = none) : encode i = [i.opcodeWord] := by
  simp only [encode, h]

theorem encode_of_operand {i : Instr} {f : Form} {m : Word} (h : i.operand = some (f, m)) :
    encode i = [i.opcodeWord, m] := by
  simp only [encode, h]

/-! The rows of the decoder's tables (R54): each holds an instruction under its own `op` byte, and each
instruction is found under its `op` byte. -/

theorem operand_of_mem_impliedRows :
    ∀ row ∈ impliedRows, row.2.operand = none ∧ row.2.op = row.1 ∧ row.2.wf = true := by
  decide

theorem impliedRows_lookup_op {i : Instr} (h : i.operand = none) : impliedRows.lookup i.op = some i := by
  cases i <;> first | rfl | cases h

/-- What a row of the two-word table says of the instructions it makes. -/
structure RowMakes (op : Byte) (row : OperandRow) : Prop where
  operand : ∀ f m, (row.make f m).operand = some (f, m)
  op : ∀ f m, (row.make f m).op = op
  wf : ∀ f m, (row.make f m).wf = row.forms.admits f

theorem rowMakes_of_mem {op : Byte} {row : OperandRow} (h : (op, row) ∈ operandRows) : RowMakes op row := by
  unfold operandRows at h
  fin_cases h <;> exact ⟨fun _ _ => rfl, fun _ _ => rfl, fun _ _ => rfl⟩

theorem mem_of_lookup {α : Type} {rows : List (Byte × α)} {op : Byte} {a : α}
    (h : rows.lookup op = some a) : (op, a) ∈ rows := by
  obtain ⟨before, after, hrows, -⟩ := List.lookup_eq_some_iff.mp h
  simp [hrows]

theorem rowMakes_of_lookup {op : Byte} {row : OperandRow} (h : operandRows.lookup op = some row) :
    RowMakes op row :=
  rowMakes_of_mem (mem_of_lookup h)

theorem exists_row_of_operand {i : Instr} {f : Form} {m : Word} (h : i.operand = some (f, m)) :
    ∃ row, operandRows.lookup i.op = some row ∧ row.make f m = i := by
  cases i <;> first | exact ⟨_, rfl, by cases h; rfl⟩ | cases h

/-! What an opcode word means (R51, R56). -/

theorem opcodeMeaning_implied (op : Byte) :
    opcodeMeaning ((0x00 : Byte) ++ op) = (impliedRows.lookup op).map .implied := by
  simp only [opcodeMeaning, modeByte_append, opByte_append, if_true]

theorem opcodeMeaning_of_row {f : Form} {op : Byte} {row : OperandRow}
    (hrow : operandRows.lookup op = some row) :
    opcodeMeaning (f.mode ++ op) = if row.forms.admits f then some (.operand (row.make f)) else none := by
  simp only [opcodeMeaning, modeByte_append, opByte_append, mode_ne_zero, if_false, formOfMode_mode, hrow]

theorem opcodeMeaning_opcodeWord_implied {i : Instr} (h : i.operand = none) :
    opcodeMeaning i.opcodeWord = some (.implied i) := by
  rw [opcodeWord_of_no_operand h, opcodeMeaning_implied, impliedRows_lookup_op h, Option.map_some]

/-- The opcode word of a well-formed two-word instruction waits for the operand word. -/
theorem opcodeMeaning_opcodeWord_operand {i : Instr} {f : Form} {m : Word} (h : i.operand = some (f, m))
    (hwf : i.wf = true) : ∃ make, opcodeMeaning i.opcodeWord = some (.operand make) ∧ make m = i := by
  obtain ⟨row, hrow, rfl⟩ := exists_row_of_operand h
  have hadm : row.forms.admits f = true := by rw [← (rowMakes_of_lookup hrow).wf f m]; exact hwf
  exact ⟨row.make f, by rw [opcodeWord_of_operand h, opcodeMeaning_of_row hrow, if_pos hadm], rfl⟩

/-- A word that means a one-word instruction is its opcode word. -/
theorem of_opcodeMeaning_implied {w : Word} {i : Instr} (h : opcodeMeaning w = some (.implied i)) :
    i.operand = none ∧ i.wf = true ∧ w = i.opcodeWord := by
  unfold opcodeMeaning at h
  split at h
  next hmode =>
    obtain ⟨j, hj, hji⟩ := Option.map_eq_some_iff.mp h
    cases hji
    obtain ⟨hopd, hop, hwf⟩ := operand_of_mem_impliedRows _ (mem_of_lookup hj)
    refine ⟨hopd, hwf, ?_⟩
    rw [opcodeWord_of_no_operand hopd]
    exact eq_append_of_bytes hmode hop.symm
  next => split at h <;> [(split at h <;> cases h); cases h]

/-- A word that waits for an operand word is built from a form and a row of the table that admits it. -/
theorem of_opcodeMeaning_operand {w : Word} {make : Word → Instr}
    (h : opcodeMeaning w = some (.operand make)) : ∃ f row, operandRows.lookup (opByte w) = some row ∧
      row.forms.admits f = true ∧ make = row.make f ∧ w = f.mode ++ opByte w := by
  unfold opcodeMeaning at h
  split at h
  next =>
    obtain ⟨j, -, hji⟩ := Option.map_eq_some_iff.mp h
    cases hji
  next =>
    split at h
    next f row hform hrow =>
      split at h
      next hadm =>
        cases h
        exact ⟨f, row, hrow, hadm, rfl, eq_append_of_bytes (formOfMode_eq_some_iff.mp hform) rfl⟩
      next => cases h
    next => cases h

/-- Whatever operand word follows, that is a well-formed instruction with this opcode word. -/
theorem wf_of_opcodeMeaning_operand {w : Word} {make : Word → Instr}
    (h : opcodeMeaning w = some (.operand make)) (m : Word) :
    ∃ f, (make m).operand = some (f, m) ∧ (make m).wf = true ∧ w = (make m).opcodeWord := by
  obtain ⟨f, row, hrow, hadm, rfl, hw⟩ := of_opcodeMeaning_operand h
  have hmk := rowMakes_of_lookup hrow
  refine ⟨f, hmk.operand f m, (hmk.wf f m).trans hadm, ?_⟩
  rw [opcodeWord_of_operand (hmk.operand f m), hmk.op f m]
  exact hw

/-! Decoding and encoding. -/

/-- Settles O3: a one-word instruction is found in the first table; a two-word one in the second, and its
operand word is the next word. -/
theorem decodeInvertsEncode : Obligations.DecodeInvertsEncode := by
  intro i rest hwf
  cases hopd : i.operand with
  | none =>
    simp only [encode_of_no_operand hopd, List.cons_append, List.nil_append, decode,
      opcodeMeaning_opcodeWord_implied hopd]
  | some p =>
    obtain ⟨f, m⟩ := p
    obtain ⟨make, hmean, hmake⟩ := opcodeMeaning_opcodeWord_operand hopd hwf
    simp only [encode_of_operand hopd, List.cons_append, List.nil_append, decode, hmean, hmake]

/-- Settles O4: by what the first word means. -/
theorem encodeInvertsDecode : Obligations.EncodeInvertsDecode := by
  intro ws i rest h
  cases ws with
  | nil => cases h
  | cons w ws =>
    cases hmean : opcodeMeaning w with
    | none => simp [decode, hmean] at h
    | some om =>
      cases om with
      | implied j =>
        simp only [decode, hmean] at h
        cases h
        obtain ⟨hopd, hwf, rfl⟩ := of_opcodeMeaning_implied hmean
        exact ⟨hwf, by rw [encode_of_no_operand hopd]; rfl⟩
      | operand make =>
        cases ws with
        | nil => simp [decode, hmean] at h
        | cons m rest' =>
          simp only [decode, hmean] at h
          cases h
          obtain ⟨f, hopd, hwf, hw⟩ := wf_of_opcodeMeaning_operand hmean m
          exact ⟨hwf, by rw [encode_of_operand hopd, ← hw]; rfl⟩

/-- Settles O2: the decoder computes on each word; the operand word is passed on as it is. -/
theorem printedWordsDecode : Obligations.PrintedWordsDecode :=
  fun _ => ⟨rfl, rfl, rfl, rfl, rfl, rfl, rfl, rfl, rfl, rfl, rfl, rfl⟩

/-! Lengths (R57). -/

theorem opcodeLength_of_implied {w : Word} {i : Instr} (h : opcodeMeaning w = some (.implied i)) :
    opcodeLength w = some 1 := by
  simp only [opcodeLength, h]

theorem opcodeLength_of_operand {w : Word} {make : Word → Instr}
    (h : opcodeMeaning w = some (.operand make)) : opcodeLength w = some 2 := by
  simp only [opcodeLength, h]

theorem opcodeLength_eq_none_iff {w : Word} : opcodeLength w = none ↔ opcodeMeaning w = none := by
  unfold opcodeLength
  split <;> simp_all

/-- Bit 8 of an opcode word is the lowest bit of its mode byte. -/
theorem getLsbD_eight (w : Word) : w.getLsbD 8 = (modeByte w).getLsbD 0 := by
  simp [modeByte, -BitVec.getLsbD_eq_getElem, BitVec.getLsbD_extractLsb']

theorem getLsbD_zero_mode (f : Form) : f.mode.getLsbD 0 = true := by
  cases f with
  | immediate | direct | indirect | postInc => rfl
  | indexed x | indirectIndexed x | postIncIndexed x => cases x <;> rfl

theorem opcodeLength_isSome_of_wf {i : Instr} (hwf : i.wf = true) :
    (opcodeLength i.opcodeWord).isSome = true := by
  cases hopd : i.operand with
  | none => simp [opcodeLength_of_implied (opcodeMeaning_opcodeWord_implied hopd)]
  | some p =>
    obtain ⟨make, hmean, -⟩ := opcodeMeaning_opcodeWord_operand (f := p.1) (m := p.2) hopd hwf
    simp [opcodeLength_of_operand hmean]

/-- Settles O5: the mode byte 0x00 is even and every form's mode byte is odd. -/
theorem lengthIsOnePlusBitEight : Obligations.LengthIsOnePlusBitEight := by
  refine ⟨fun w n hlen => ?_, fun w => ⟨fun hdef => ?_, ?_⟩⟩
  · cases hmean : opcodeMeaning w with
    | none => simp [opcodeLength_eq_none_iff.mpr hmean] at hlen
    | some om =>
      cases om with
      | implied i =>
        obtain ⟨hopd, -, rfl⟩ := of_opcodeMeaning_implied hmean
        cases (opcodeLength_of_implied hmean).symm.trans hlen
        rw [opcodeWord_of_no_operand hopd, getLsbD_eight, modeByte_append]
        rfl
      | operand make =>
        obtain ⟨f, -, -, -, -, hw⟩ := of_opcodeMeaning_operand hmean
        cases (opcodeLength_of_operand hmean).symm.trans hlen
        rw [hw, getLsbD_eight, modeByte_append, getLsbD_zero_mode]
        rfl
  · cases hmean : opcodeMeaning w with
    | none => simp [opcodeLength_eq_none_iff.mpr hmean] at hdef
    | some om =>
      cases om with
      | implied i =>
        obtain ⟨-, hwf, hw⟩ := of_opcodeMeaning_implied hmean
        exact ⟨i, hwf, hw.symm⟩
      | operand make =>
        obtain ⟨f, -, hwf, hw⟩ := wf_of_opcodeMeaning_operand hmean 0
        exact ⟨make 0, hwf, hw.symm⟩
  · rintro ⟨i, hwf, rfl⟩
    exact opcodeLength_isSome_of_wf hwf

/-! The 402 words (R55, R56). -/

/-- The opcode words of the one-word table. -/
def impliedWords : List Word := impliedRows.map fun row => (0x00 : Byte) ++ row.1

/-- The opcode words of a row of the two-word table. -/
def wordsOfRow (row : Byte × OperandRow) : List Word :=
  (allForms.filter row.2.forms.admits).map fun f => f.mode ++ row.1

/-- All words that spell an instruction. -/
def definedWords : List Word := impliedWords ++ operandRows.flatMap wordsOfRow

theorem mem_impliedWords {w : Word} : w ∈ impliedWords ↔ ∃ i, opcodeMeaning w = some (.implied i) := by
  constructor
  · intro h
    obtain ⟨row, hrow, rfl⟩ := List.mem_map.mp h
    obtain ⟨hopd, hop, -⟩ := operand_of_mem_impliedRows row hrow
    exact ⟨row.2, by rw [← hop, ← opcodeWord_of_no_operand hopd, opcodeMeaning_opcodeWord_implied hopd]⟩
  · rintro ⟨i, h⟩
    obtain ⟨hopd, -, rfl⟩ := of_opcodeMeaning_implied h
    refine List.mem_map.mpr ⟨(i.op, i), mem_of_lookup (impliedRows_lookup_op hopd), ?_⟩
    rw [opcodeWord_of_no_operand hopd]

theorem mem_wordsOfRow {op : Byte} {row : OperandRow} {w : Word} :
    w ∈ wordsOfRow (op, row) ↔ ∃ f, row.forms.admits f = true ∧ w = f.mode ++ op := by
  simp only [wordsOfRow, List.mem_map, List.mem_filter, mem_allForms, true_and, eq_comm]

theorem operandRows_ops_nodup : (operandRows.map Prod.fst).Nodup := by decide

theorem lookup_of_mem_operandRows {op : Byte} {row : OperandRow} (h : (op, row) ∈ operandRows) :
    operandRows.lookup op = some row := by
  unfold operandRows at h
  fin_cases h <;> rfl

theorem mem_operandWords {w : Word} :
    w ∈ operandRows.flatMap wordsOfRow ↔ ∃ make, opcodeMeaning w = some (.operand make) := by
  constructor
  · intro h
    obtain ⟨⟨op, row⟩, hrow, hw⟩ := List.mem_flatMap.mp h
    obtain ⟨f, hadm, rfl⟩ := mem_wordsOfRow.mp hw
    exact ⟨row.make f, by rw [opcodeMeaning_of_row (lookup_of_mem_operandRows hrow), if_pos hadm]⟩
  · rintro ⟨make, h⟩
    obtain ⟨f, row, hrow, hadm, -, hw⟩ := of_opcodeMeaning_operand h
    exact List.mem_flatMap.mpr ⟨(opByte w, row), mem_of_lookup hrow, mem_wordsOfRow.mpr ⟨f, hadm, hw⟩⟩

theorem mem_definedWords {w : Word} : w ∈ definedWords ↔ (opcodeLength w).isSome = true := by
  rw [definedWords, List.mem_append, mem_impliedWords, mem_operandWords, Option.isSome_iff_ne_none, Ne,
    opcodeLength_eq_none_iff]
  cases opcodeMeaning w with
  | none => simp
  | some om => cases om <;> simp

theorem impliedWords_nodup : impliedWords.Nodup := by decide

theorem wordsOfRow_nodup (row : Byte × OperandRow) : (wordsOfRow row).Nodup := by
  have hforms : (allForms.map Form.mode).Nodup := by decide
  refine List.Nodup.map_on (fun f _ g _ hfg => ?_) ((List.Nodup.of_map _ hforms).filter _)
  exact List.inj_on_of_nodup_map hforms (mem_allForms f) (mem_allForms g) (append_inj hfg).1

/-- Words of two rows differ in their `op` byte, and words of the two tables in their mode byte. -/
theorem definedWords_nodup : definedWords.Nodup := by
  refine List.Nodup.append impliedWords_nodup (List.nodup_flatMap.mpr ⟨fun row _ => wordsOfRow_nodup row, ?_⟩)
    fun w himp hopd => ?_
  · refine List.Pairwise.imp (fun {a b} hab w ha hb => ?_) (List.pairwise_map.mp operandRows_ops_nodup)
    obtain ⟨f, -, rfl⟩ := mem_wordsOfRow.mp ha
    obtain ⟨g, -, hfg⟩ := mem_wordsOfRow.mp hb
    exact hab (append_inj hfg).2
  · obtain ⟨i, hi⟩ := mem_impliedWords.mp himp
    obtain ⟨make, hmake⟩ := mem_operandWords.mp hopd
    simp [hi] at hmake

theorem length_definedWords : definedWords.length = 402 := by
  rw [definedWords, List.length_append, List.length_flatMap]
  rfl

/-- Settles O6: the tables list 44 one-word instructions and 358 pairs of a two-word instruction and a form. -/
theorem fourHundredTwoWordsAreDefined : Obligations.FourHundredTwoWordsAreDefined := by
  refine ⟨⟨definedWords, definedWords_nodup, length_definedWords, fun _ => mem_definedWords⟩, fun w rest h => ?_⟩
  simp only [decode, opcodeLength_eq_none_iff.mp h]

/-! Spelling: the words and the printed count of an instruction (R242). -/

theorem spelledOne {i : Instr} {w : Word} {n e : Nat} (hopd : i.operand = none) (hw : i.opcodeWord = w)
    (hcost : instrCost i = some ⟨n, e⟩) : SpelledOne i w n e := by
  have henc : encode i = [w] := by rw [encode_of_no_operand hopd, hw]
  refine ⟨henc, ?_, hcost⟩
  simp only [decode, ← hw, opcodeMeaning_opcodeWord_implied hopd]

/-- The words of a row of the two-word table are its `op` byte after the mode bytes of its forms. -/
theorem spelledTwo {op : Byte} {forms : FormSet} {mk : Form → Word → Instr} {ws : List Word}
    {cs : List Cost} (hrow : operandRows.lookup op = some ⟨forms, mk⟩)
    (hws : (allForms.filter forms.admits).map (fun f => (f.mode ++ op : Word)) = ws)
    (hcs : ∀ m, (allForms.filter forms.admits).map (fun f => instrCost (mk f m)) = cs.map some) :
    SpelledTwo forms mk ws cs := by
  intro m
  have hmk := rowMakes_of_lookup hrow
  have hword (f : Form) : (mk f m).opcodeWord = f.mode ++ op := by
    rw [opcodeWord_of_operand (hmk.operand f m), hmk.op f m]
  have henc (f : Form) : encode (mk f m) = [f.mode ++ op, m] := by
    rw [encode_of_operand (hmk.operand f m), hword]
  refine ⟨?_, ?_, hcs m, fun f hadm => ?_⟩
  · rw [← hws, List.map_map]
    exact List.map_congr_left fun f _ => henc f
  · rw [← hws, List.map_map]
    refine List.map_congr_left fun f hf => ?_
    have hwf : (mk f m).wf = true := (hmk.wf f m).trans (List.mem_filter.mp hf).2
    simpa [henc f] using decodeInvertsEncode (mk f m) [] hwf
  · rw [hword, opcodeLength_eq_none_iff, opcodeMeaning_of_row hrow, if_neg (by simp [hadm])]

end Sys2Proof.Decoding

/-! PROOFS. Memory and the stack (20_memory.md R36, R41, R44): one function for what a store leaves in memory,
the rules of reads, writes, pushes and pops in its terms, and the statements settled with them. -/

namespace Sys2Proof.Storage

open Sys2Proof.Machine Sys2Proof.Claims

/-! Memory after a store (R36). -/

/-- Memory after the word `v` is stored at `a`: changed at a `ram` address only. -/
def stored (p : Params) (m : Memory) (a v : Word) : Memory :=
  if kindAt p a = .ram then m.putWord a v else m

section Stored

variable {p : Params} {m : Memory} {a v : Word}

theorem stored_of_ram (h : kindAt p a = .ram) : stored p m a v = m.putWord a v := if_pos h

theorem stored_of_ne_ram (h : kindAt p a ≠ .ram) : stored p m a v = m := if_neg h

theorem stores_stored (p : Params) (m : Memory) (a v : Word) : m.Stores p (stored p m a v) := by
  by_cases h : kindAt p a = .ram
  · rw [stored_of_ram h]
    exact .store a v (.none m) h
  · rw [stored_of_ne_ram h]
    exact .none m

theorem word_stored_same (h : kindAt p a = .ram) : (stored p m a v).word a = v := by
  rw [stored_of_ram h, Memory.word_putWord_same]

/-- The function gives what the statements' relation asks for. -/
theorem wordStored_stored (p : Params) (m : Memory) (a v : Word) : WordStored p m (stored p m a v) a v := by
  by_cases h : kindAt p a = .ram
  · rw [stored_of_ram h]
    exact ⟨fun _ => ⟨m.lookup_putWord_low a v, m.lookup_putWord_high a v⟩,
      fun k hk => m.lookup_putWord_other v (hk h).1 (hk h).2⟩
  · rw [stored_of_ne_ram h]
    exact ⟨fun h' => absurd h' h, fun _ _ => rfl⟩

end Stored

/-! What the relation `WordStored` says of words. -/

section WordStored

variable {p : Params} {before after : Memory} {a v : Word}

theorem word_of_wordStored (h : WordStored p before after a v) (hram : kindAt p a = .ram) :
    after.word a = v :=
  Memory.word_of_lookup (h.1 hram).1 (h.1 hram).2

/-- A word at another address, and any word that is not `ram`, is as before. -/
theorem word_of_wordStored_other (h : WordStored p before after a v) {b : Word}
    (hb : kindAt p a = .ram → b ≠ a) : after.word b = before.word b := by
  refine Memory.word_congr (h.2 _ fun hram => ⟨?_, lowKey_ne_highKey b a⟩)
    (h.2 _ fun hram => ⟨(lowKey_ne_highKey a b).symm, ?_⟩)
  · exact mt lowKey_inj.mp (hb hram)
  · exact mt highKey_inj.mp (hb hram)

end WordStored

/-! Reads and writes of the state. -/

theorem writeWord_eq (s : State) (a v : Word) :
    s.writeWord a v = { s with mem := stored s.params s.mem a v } := by
  by_cases h : kindAt s.params a = .ram
  · rw [s.writeWord_of_ram v h, stored_of_ram h]
    rfl
  · rw [s.writeWord_of_ne_ram v h, stored_of_ne_ram h]

theorem readWord_with_mem (s : State) (mem : Memory) {a : Word} (h : kindAt s.params a ≠ .absent) :
    ({ s with mem := mem } : State).readWord a = (mem.word a, { s with mem := mem }) :=
  State.readWord_of_present _ h

/-- Settles O9: a write is `stored`, and a read is the word stored. -/
theorem memoryReadsWhatWasWritten : Obligations.MemoryReadsWhatWasWritten := by
  intro s a v
  refine ⟨fun hram => ⟨?_, fun b hb hpresent => ?_⟩, ⟨_, writeWord_eq s a v, wordStored_stored _ _ _ _⟩,
    s.writeWord_of_ne_ram v, s.readWord_of_present, ?_⟩
  · rw [writeWord_eq, readWord_with_mem s _ (by simp [hram]), word_stored_same hram]
  · rw [writeWord_eq, readWord_with_mem s _ hpresent,
      word_of_wordStored_other (wordStored_stored _ _ _ _) fun _ => hb]
  · obtain ⟨w, n, hread, -⟩ := s.readWord_spec a
    exact ⟨w, n, hread⟩

/-- Settles O10: a stored word is present and loaded, and its fetch is a read. -/
theorem fetchSeesStoredWord : Obligations.FetchSeesStoredWord := by
  intro s a v hram
  have hloaded : (stored s.params s.mem a v).loaded a = true := by
    rw [stored_of_ram hram, Memory.loaded_putWord_same]
  rw [writeWord_eq, State.fetchWord_of_loaded _ (by simp [hram]) hloaded, word_stored_same hram]

/-! The stack (R44). -/

theorem push_eq (s : State) (v : Word) :
    s.push v = { s with sp := s.spAfterPush, mem := stored s.params s.mem s.pushSlot v } := by
  rw [State.push, writeWord_eq]
  rfl

theorem pop_of_present {s : State} (h : kindAt s.params s.popSlot ≠ .absent) :
    s.pop = (s.mem.word s.popSlot, { s with sp := s.spAfterPop }) := by
  rw [State.pop, s.readWord_of_present h]
  rfl

/-- The law of the stack: where SP stands as a push from `s` left it and the slot of that push holds `v`, a pop
gives `v` and the SP of `s`. -/
theorem pop_after_push {s h : State} {v : Word} (hram : kindAt s.params s.pushSlot = .ram)
    (hparams : h.params = s.params) (hsp : h.sp = s.spAfterPush) (hword : h.mem.word s.pushSlot = v) :
    h.pop = (v, { h with sp := s.sp }) := by
  have hslot : h.popSlot = s.pushSlot := s.popSlot_after_push hparams hsp
  rw [pop_of_present (by rw [hslot, hparams, hram]; decide), hslot, hword,
    s.spAfterPop_after_push hparams hsp]

section Disciplines

variable {s : State}

theorem stack_fullDescending (h : s.params.stackModel = .fullDescending) :
    s.pushSlot = s.sp - 1 ∧ s.spAfterPush = s.sp - 1 ∧ s.popSlot = s.sp ∧ s.spAfterPop = s.sp + 1 := by
  simp [State.pushSlot, State.spAfterPush, State.popSlot, State.spAfterPop, h]

theorem stack_emptyDescending (h : s.params.stackModel = .emptyDescending) :
    s.pushSlot = s.sp ∧ s.spAfterPush = s.sp - 1 ∧ s.popSlot = s.sp + 1 ∧ s.spAfterPop = s.sp + 1 := by
  simp [State.pushSlot, State.spAfterPush, State.popSlot, State.spAfterPop, h]

theorem stack_fullAscending (h : s.params.stackModel = .fullAscending) :
    s.pushSlot = s.sp + 1 ∧ s.spAfterPush = s.sp + 1 ∧ s.popSlot = s.sp ∧ s.spAfterPop = s.sp - 1 := by
  simp [State.pushSlot, State.spAfterPush, State.popSlot, State.spAfterPop, h]

theorem stack_emptyAscending (h : s.params.stackModel = .emptyAscending) :
    s.pushSlot = s.sp ∧ s.spAfterPush = s.sp + 1 ∧ s.popSlot = s.sp - 1 ∧ s.spAfterPop = s.sp - 1 := by
  simp [State.pushSlot, State.spAfterPush, State.popSlot, State.spAfterPop, h]

end Disciplines

/-- Settles O11: the table of R44 row by row, what a push and a pop do, and the law of the stack. -/
theorem popAfterPushReturnsTheWord : Obligations.PopAfterPushReturnsTheWord := by
  intro s v
  refine ⟨stack_fullDescending, stack_emptyDescending, stack_fullAscending, stack_emptyAscending,
    ⟨_, push_eq s v, wordStored_stored _ _ _ _⟩, s.pop_spec, fun hram => ?_⟩
  have hword : (s.push v).mem.word s.pushSlot = v := by rw [push_eq]; exact word_stored_same hram
  refine ⟨?_, hword⟩
  rw [pop_after_push hram (by rw [push_eq]) (by rw [push_eq]) hword, push_eq]

end Sys2Proof.Storage

/-! PROOFS. What each shape of instruction does to the state, said once as an equation for `exec`: the operand
that a two-word instruction resolves (30_encoding.md R69), and the flag effects that are parameters
(40_zero_address_accumulator.md R99). -/

namespace Sys2Proof.Execution

open Sys2Proof.Machine Sys2Proof.Claims Sys2Proof.Encoding Sys2Proof.Storage

/-! The operand of a two-word instruction (R69). -/

section Operand

variable (s : State) (f : Form) (m : Word)

/-- The datum of the value class: the operand word, or the word at the effective address. -/
def datum : Word := ((resolve f m s).1.value m (resolve f m s).2).1

/-- The draw count after the datum is read. -/
def drawsAfter : Nat := ((resolve f m s).1.value m (resolve f m s).2).2.draws

/-- Memory after the post-increment of a form begun in `s`, where it was `mem` before (R70). -/
def bumped (mem : Memory) : Memory :=
  match (resolve f m s).1.pointer with
  | some p => stored s.params mem m (p + 1)
  | none => mem

/-- `s` with all that a value-class instruction does beside its own act: the draws of its reads, the
post-increment, and PC. -/
def fetched : State := { s with mem := bumped s f m s.mem, draws := drawsAfter s f m, pc := s.pc + 2 }

theorem value_resolve :
    (resolve f m s).1.value m (resolve f m s).2 = (datum s f m, { s with draws := drawsAfter s f m }) := by
  obtain ⟨o, n, hres, -, -⟩ := resolve_spec s f m
  obtain ⟨v, k, hval, -, -⟩ := Operand.value_spec { s with draws := n } o m
  simp only [datum, drawsAfter, hres, hval]

theorem postIncDone_bumped (mem : Memory) : PostIncDone s f m mem (bumped s f m mem) := by
  unfold PostIncDone bumped
  cases (resolve f m s).1.pointer with
  | none => rfl
  | some p => exact wordStored_stored _ _ _ _

theorem stores_bumped (mem : Memory) : mem.Stores s.params (bumped s f m mem) := by
  unfold bumped
  cases (resolve f m s).1.pointer with
  | none => exact .none mem
  | some p => exact stores_stored _ _ _ _

variable {s f m}

theorem postInc_resolve (s f m) {t : State} (hparams : t.params = s.params) :
    (resolve f m s).1.postInc m t = { t with mem := bumped s f m t.mem } := by
  unfold Operand.postInc bumped
  cases (resolve f m s).1.pointer with
  | none => rfl
  | some p => simp only [writeWord_eq, hparams]

/-- Without a latched pointer memory is left alone. -/
theorem bumped_of_no_pointer (h : (resolve f m s).1.pointer = none) (mem : Memory) : bumped s f m mem = mem := by
  simp only [bumped, h]

theorem bumped_of_pointer {p : Word} (h : (resolve f m s).1.pointer = some p) (mem : Memory) :
    bumped s f m mem = stored s.params mem m (p + 1) := by
  simp only [bumped, h]

/-- The value class: an act that leaves memory, PC and the parameters alone. -/
theorem withValue_eq {act : Word → State → State} {u : State}
    (hact : act (datum s f m) { s with draws := drawsAfter s f m } = u) (hparams : u.params = s.params)
    (hmem : u.mem = s.mem) (hpc : u.pc = s.pc) :
    withValue f m act s = .next { u with mem := bumped s f m s.mem, pc := s.pc + 2 } := by
  simp only [withValue, value_resolve, hact, postInc_resolve s f m hparams, hmem, State.advance, State.setPc, hpc]

/-- A jump (R179): PC alone depends on the condition. -/
theorem jumpWhen_eq (cond : State → Bool) :
    jumpWhen cond f m s =
      .next { fetched s f m with pc := if cond s then datum s f m else s.pc + 2 } := by
  simp only [jumpWhen, value_resolve]
  rw [postInc_resolve s f m (t := { s with draws := drawsAfter s f m }) rfl]
  cases cond s <;> rfl

/-- The location class: for a listed form the act is done at the resolved address, and the post-increment after
it. -/
theorem withLocation_eq {forms : FormSet} (hadm : forms.admits f = true) (hne : f ≠ .immediate) :
    ∃ ea n, (resolve f m s).1.ea = some ea ∧ ∀ i act u, act ea { s with draws := n } = u →
      u.params = s.params → u.pc = s.pc →
      withLocation forms i f m act s = .next { u with mem := bumped s f m u.mem, pc := s.pc + 2 } := by
  obtain ⟨ea, n, hea, -, hloc⟩ := withLocation_spec s m hadm hne
  refine ⟨ea, n, hea, fun i act u hact hparams hpc => ?_⟩
  rw [hloc i act, hact, postInc_resolve s f m hparams, State.advance, hpc]
  rfl

end Operand

/-! Loads, arithmetic and logic. -/

section Value

variable (s : State) (f : Form) (m : Word)

theorem exec_lda : exec (.lda f m) s = .next { fetched s f m with ac := datum s f m } :=
  withValue_eq (act := fun v t => t.setAc v) rfl rfl rfl rfl

theorem exec_lds : exec (.lds f m) s = .next { fetched s f m with sp := datum s f m } :=
  withValue_eq (act := fun v t => t.setSp v) rfl rfl rfl rfl

theorem exec_ldx : exec (.ldx f m) s = .next { fetched s f m with ix := datum s f m } :=
  withValue_eq (act := fun v t => t.setIx v) rfl rfl rfl rfl

theorem exec_ldy : exec (.ldy f m) s = .next { fetched s f m with iy := datum s f m } :=
  withValue_eq (act := fun v t => t.setIy v) rfl rfl rfl rfl

/-- The result of an addition or subtraction in AC and the flags (R160 to R163). -/
def withArith (t : State) (r : ArithResult) (carry : Bool) : State :=
  { t with ac := r.value, cf := carry, ovf := r.overflow }

theorem exec_add : exec (.add f m) s =
    .next (withArith (fetched s f m) (addC s.ac (datum s f m) false) (addC s.ac (datum s f m) false).carry) :=
  withValue_eq (act := fun v t =>
    let r := addC t.ac v false
    t.setArith r.value r.carry r.overflow) rfl rfl rfl rfl

theorem exec_adc : exec (.adc f m) s =
    .next (withArith (fetched s f m) (addC s.ac (datum s f m) s.cf) (addC s.ac (datum s f m) s.cf).carry) :=
  withValue_eq (act := fun v t =>
    let r := addC t.ac v t.cf
    t.setArith r.value r.carry r.overflow) rfl rfl rfl rfl

theorem exec_sub : exec (.sub f m) s =
    .next (withArith (fetched s f m) (subB s.ac (datum s f m) false)
      (borrowFlag s.params.subCarry (subB s.ac (datum s f m) false).carry)) :=
  withValue_eq (act := fun v t =>
    let r := subB t.ac v false
    t.setArith r.value (borrowFlag t.params.subCarry r.carry) r.overflow) rfl rfl rfl rfl

theorem exec_sbc : exec (.sbc f m) s =
    .next (withArith (fetched s f m) (subB s.ac (datum s f m) (borrowFlag s.params.subCarry s.cf))
      (borrowFlag s.params.subCarry
        (subB s.ac (datum s f m) (borrowFlag s.params.subCarry s.cf)).carry)) :=
  withValue_eq (act := fun v t =>
    let r := subB t.ac v (borrowFlag t.params.subCarry t.cf)
    t.setArith r.value (borrowFlag t.params.subCarry r.carry) r.overflow) rfl rfl rfl rfl

/-- AND, ORA, XOR: the result in AC and the flags as `FLAGS_LOGIC` says. -/
theorem withValue_logic (op : Word → Word → Word) : ∃ c v n,
    withValue f m (fun w t => (t.setAc (op t.ac w)).flagsLogic) s =
      .next { fetched s f m with ac := op s.ac (datum s f m), cf := c, ovf := v, draws := n } ∧
    (s.params.flagsLogic = .unchanged → c = s.cf ∧ v = s.ovf) := by
  obtain ⟨c, v, n, hflags, hkept⟩ := State.flagsLogic_spec
    { s with draws := drawsAfter s f m, ac := op s.ac (datum s f m) }
  refine ⟨c, v, n, ?_, fun h => ⟨(hkept h).1, (hkept h).2.1⟩⟩
  exact (withValue_eq (s := s) (f := f) (m := m)
    (act := fun w t => (t.setAc (op t.ac w)).flagsLogic) hflags rfl rfl rfl :)

theorem exec_and : ∃ c v n, exec (.and f m) s =
      .next { fetched s f m with ac := s.ac &&& datum s f m, cf := c, ovf := v, draws := n } ∧
    (s.params.flagsLogic = .unchanged → c = s.cf ∧ v = s.ovf) :=
  withValue_logic s f m (· &&& ·)

theorem exec_ora : ∃ c v n, exec (.ora f m) s =
      .next { fetched s f m with ac := s.ac ||| datum s f m, cf := c, ovf := v, draws := n } ∧
    (s.params.flagsLogic = .unchanged → c = s.cf ∧ v = s.ovf) :=
  withValue_logic s f m (· ||| ·)

theorem exec_xor : ∃ c v n, exec (.xor f m) s =
      .next { fetched s f m with ac := s.ac ^^^ datum s f m, cf := c, ovf := v, draws := n } ∧
    (s.params.flagsLogic = .unchanged → c = s.cf ∧ v = s.ovf) :=
  withValue_logic s f m (· ^^^ ·)

end Value

/-! Jumps (R180 to R188). -/

section Jump

variable (s : State) (f : Form) (m : Word)

theorem exec_jmp : exec (.jmp f m) s =
    .next { fetched s f m with pc := datum s f m } :=
  jumpWhen_eq (fun _ => true)

theorem exec_joz : exec (.joz f m) s =
    .next { fetched s f m with pc := if s.ac == 0x0000 then datum s f m else s.pc + 2 } :=
  jumpWhen_eq (fun t => t.ac == 0x0000)

theorem exec_jnz : exec (.jnz f m) s =
    .next { fetched s f m with pc := if s.ac != 0x0000 then datum s f m else s.pc + 2 } :=
  jumpWhen_eq (fun t => t.ac != 0x0000)

theorem exec_jpl : exec (.jpl f m) s =
    .next { fetched s f m with pc := if !s.ac.getLsbD 15 then datum s f m else s.pc + 2 } :=
  jumpWhen_eq (fun t => !t.ac.getLsbD 15)

theorem exec_jmi : exec (.jmi f m) s =
    .next { fetched s f m with pc := if s.ac.getLsbD 15 then datum s f m else s.pc + 2 } :=
  jumpWhen_eq (fun t => t.ac.getLsbD 15)

theorem exec_joc : exec (.joc f m) s =
    .next { fetched s f m with pc := if s.cf then datum s f m else s.pc + 2 } :=
  jumpWhen_eq (fun t => t.cf)

theorem exec_jnc : exec (.jnc f m) s =
    .next { fetched s f m with pc := if !s.cf then datum s f m else s.pc + 2 } :=
  jumpWhen_eq (fun t => !t.cf)

theorem exec_jov : exec (.jov f m) s =
    .next { fetched s f m with pc := if s.ovf then datum s f m else s.pc + 2 } :=
  jumpWhen_eq (fun t => t.ovf)

theorem exec_jnv : exec (.jnv f m) s =
    .next { fetched s f m with pc := if !s.ovf then datum s f m else s.pc + 2 } :=
  jumpWhen_eq (fun t => !t.ovf)

end Jump

/-! Stores, input and output, call. -/

section Location

variable (s : State) {f : Form} (m : Word)

theorem exec_storeInstr (r : Reg) (f : Form) : exec (r.storeInstr f m) s =
    withLocation .f12 (r.storeInstr f m) f m (fun ea t => t.writeWord ea (r.read t)) s := by
  cases r <;> rfl

theorem exec_store (r : Reg) (hne : f ≠ .immediate) : ∃ ea n, (resolve f m s).1.ea = some ea ∧
    exec (r.storeInstr f m) s = .next { s with
      mem := bumped s f m (stored s.params s.mem ea (r.read s)), draws := n, pc := s.pc + 2 } := by
  obtain ⟨ea, n, hea, hloc⟩ :=
    withLocation_eq (s := s) (m := m) (forms := .f12) (by simpa [FormSet.admits] using hne) hne
  have hread : r.read { s with draws := n } = r.read s := by cases r <;> rfl
  refine ⟨ea, n, hea, ?_⟩
  rw [exec_storeInstr, ← hread]
  exact hloc (r.storeInstr f m) (fun ea t => t.writeWord ea (r.read t)) _ (writeWord_eq { s with draws := n } ea _)
    rfl rfl

theorem exec_inp (hne : f ≠ .immediate) : ∃ ea v n, (resolve f m s).1.ea = some ea ∧
    exec (.inp f m) s = .next { s with
      ac := v, mem := bumped s f m s.mem, ioLog := s.ioLog ++ [.read ea v],
      portScript := s.portScript.tail, draws := n, pc := s.pc + 2 } ∧
    ∀ a l, s.portScript = a :: l → v = a := by
  obtain ⟨ea, n, hea, hloc⟩ :=
    withLocation_eq (s := s) (m := m) (forms := .f12) (by simpa [FormSet.admits] using hne) hne
  obtain ⟨v, k, hread, hv⟩ := State.ioRead_spec { s with draws := n } ea
  refine ⟨ea, v, k, hea, ?_, fun a l h => (hv a l h).1⟩
  refine (hloc (.inp f m) (fun port t => (t.ioRead port).2.setAc (t.ioRead port).1)
    { s with ac := v, portScript := s.portScript.tail, draws := k, ioLog := s.ioLog ++ [.read ea v] }
    ?_ rfl rfl :)
  simp only [hread]
  rfl

theorem exec_out (hne : f ≠ .immediate) : ∃ ea n, (resolve f m s).1.ea = some ea ∧
    exec (.out f m) s = .next { s with
      mem := bumped s f m s.mem, ioLog := s.ioLog ++ [.write ea s.ac], draws := n, pc := s.pc + 2 } := by
  obtain ⟨ea, n, hea, hloc⟩ :=
    withLocation_eq (s := s) (m := m) (forms := .f12) (by simpa [FormSet.admits] using hne) hne
  exact ⟨ea, n, hea, (hloc (.out f m) (fun port t => t.ioWrite port t.ac) _ rfl rfl rfl :)⟩

theorem exec_csr (hadm : FormSet.f4.admits f = true) : exec (.csr f m) s = .next { s with
    sp := s.spAfterPush, mem := bumped s f m (stored s.params s.mem s.pushSlot (s.pc + 2)),
    draws := drawsAfter s f m, pc := datum s f m } := by
  show execCsr f m s = _
  have hpush : State.push { s with draws := drawsAfter s f m } (s.pc + 2) = { s with
      draws := drawsAfter s f m, sp := s.spAfterPush, mem := stored s.params s.mem s.pushSlot (s.pc + 2) } :=
    push_eq _ _
  simp only [execCsr, hadm, if_true, value_resolve, hpush]
  rw [postInc_resolve s f m (t := { s with
    draws := drawsAfter s f m, sp := s.spAfterPush, mem := stored s.params s.mem s.pushSlot (s.pc + 2) }) rfl]
  rfl

/-- R55: a form that is not listed is the fault of its undefined word. -/
theorem exec_store_immediate (r : Reg) : exec (r.storeInstr .immediate m) s =
    .fault (.undefinedOpcode (r.storeInstr .immediate m).opcodeWord s) := by
  rw [exec_storeInstr]
  exact withLocation_of_not_admits s (forms := .f12) (f := .immediate) m rfl _ _

theorem exec_inp_immediate :
    exec (.inp .immediate m) s = .fault (.undefinedOpcode (Instr.inp .immediate m).opcodeWord s) :=
  withLocation_of_not_admits s (forms := .f12) (f := .immediate) m rfl (.inp .immediate m)
    (fun port t => (t.ioRead port).2.setAc (t.ioRead port).1)

theorem exec_out_immediate :
    exec (.out .immediate m) s = .fault (.undefinedOpcode (Instr.out .immediate m).opcodeWord s) :=
  withLocation_of_not_admits s (forms := .f12) (f := .immediate) m rfl (.out .immediate m)
    (fun port t => t.ioWrite port t.ac)

theorem exec_csr_of_not_admits (hadm : FormSet.f4.admits f = false) :
    exec (.csr f m) s = .fault (.undefinedOpcode (Instr.csr f m).opcodeWord s) := by
  show execCsr f m s = _
  simp only [execCsr, hadm, Bool.false_eq_true, if_false, undefinedForm]

end Location

/-! ISZ and DSZ (R170 to R172). -/

section Count

variable (s : State) {f : Form} (m : Word)

/-- What a counting instruction leaves before it goes on or skips: memory `mem`, flags `c v`, draw count `n`. -/
def counted (mem : Memory) (c v : Bool) (n : Nat) : State := { s with mem := mem, cf := c, ovf := v, draws := n }

theorem countAndSkip_eq (hadm : FormSet.f11.admits f = true) : ∃ ea, (resolve f m s).1.ea = some ea ∧
    ∀ i count old, ((resolve f m s).2.readWord ea).1 = old → ∃ c v n,
      (s.params.flagsStep = .unchanged → c = s.cf ∧ v = s.ovf) ∧
      countAndSkip i f m count s =
        if count old = 0 then
          (counted s (bumped s f m (stored s.params s.mem ea (count old))) c v n).skip
        else
          .next ((counted s (bumped s f m (stored s.params s.mem ea (count old))) c v n).setPc (s.pc + 2)) := by
  obtain ⟨ea, n, hea, hdraw, hcount⟩ := countAndSkip_spec s m hadm
  refine ⟨ea, hea, fun i count old hold => ?_⟩
  obtain ⟨word, k, hread, -⟩ := State.readWord_spec { s with draws := n } ea
  rw [hdraw, hread] at hold
  subst hold
  obtain ⟨c, v, j, hflags, hkept⟩ := State.flagsStep_spec
    { s with draws := k, mem := stored s.params s.mem ea (count word) }
  have hwrite : State.writeWord (State.setDraws { s with draws := n } k) ea (count word) =
      { s with draws := k, mem := stored s.params s.mem ea (count word) } := writeWord_eq _ _ _
  refine ⟨c, v, j, fun h => ⟨(hkept h).1, (hkept h).2.1⟩, ?_⟩
  have hpost := postInc_resolve s f m (t := counted s (stored s.params s.mem ea (count word)) c v j) rfl
  simp only [counted] at hpost
  rw [hcount i count]
  simp only [hread, hwrite, hflags, hpost]
  rfl

theorem countAndSkip_of_not_admits (hadm : FormSet.f11.admits f = false) (i : Instr) (count : Word → Word) :
    countAndSkip i f m count s = .fault (.undefinedOpcode i.opcodeWord s) := by
  simp only [countAndSkip, hadm, undefinedForm]

/-- An instruction that counts and completes writes memory, the flags (if `FLAGS_STEP` says so) and PC. -/
theorem countAndSkip_next {i : Instr} {count : Word → Word} {t : State}
    (h : countAndSkip i f m count s = .next t) : ∃ mem c v n pc,
    t = { s with mem := mem, cf := c, ovf := v, draws := n, pc := pc } ∧ s.mem.Stores s.params mem ∧
    (s.params.flagsStep = .unchanged → c = s.cf ∧ v = s.ovf) := by
  cases hadm : FormSet.f11.admits f with
  | false => simp [countAndSkip_of_not_admits s m hadm] at h
  | true =>
    obtain ⟨ea, -, hcount⟩ := countAndSkip_eq s m hadm
    obtain ⟨c, v, n, hkept, heq⟩ := hcount i count _ rfl
    rw [heq] at h
    have hstores (w : Word) : s.mem.Stores s.params (bumped s f m (stored s.params s.mem ea w)) :=
      (stores_stored _ _ _ _).trans (stores_bumped _ _ _ _)
    split at h
    next =>
      obtain ⟨w, k, -, ⟨hskip, -⟩ | ⟨-, ⟨-, hskip⟩ | ⟨len, -, hskip⟩⟩⟩ := State.skip_spec
        (counted s (bumped s f m (stored s.params s.mem ea (count ((resolve f m s).2.readWord ea).1))) c v n)
      · rw [hskip] at h; cases h
      · rw [hskip] at h; cases h
      · rw [hskip] at h
        cases h
        exact ⟨_, c, v, k, _, rfl, hstores _, hkept⟩
    next =>
      cases h
      exact ⟨_, c, v, n, _, rfl, hstores _, hkept⟩

end Count

/-! Trap return without a return address (U17). -/

theorem trapReturn_of_no_pc {s : State} (h : FrameItem.pc ∉ s.params.trapFrame) :
    s.trapReturn = .refused .refusedParameters := by
  obtain ⟨-, -, -, -, -, -, -, -, -, -, -, -, hnew⟩ := s.popFrame_spec none s.params.trapFrame.reverse
  have hnone : (s.popFrame none s.params.trapFrame.reverse).2 = none := by
    rw [← Option.isSome_eq_false_iff.trans Option.isNone_iff_eq_none, hnew]
    simp [h]
  unfold State.trapReturn
  generalize s.popFrame none s.params.trapFrame.reverse = r at hnone
  obtain ⟨t, new⟩ := r
  cases hnone
  rfl

/-! One-word instructions whose flags are a parameter (R99). -/

section Flags

variable (s : State)

theorem flagsAccUnary_advance (w : Word) (carry overflow : Bool) : ∃ c v n,
    (.next (((s.setAc w).flagsAccUnary carry overflow).advance 1) : Out) =
      .next { s with ac := w, cf := c, ovf := v, draws := n, pc := s.pc + 1 } ∧
    AccUnaryFlagsAre s carry overflow c v := by
  obtain ⟨c, v, n, hflags, hkept, harith⟩ := (s.setAc w).flagsAccUnary_spec carry overflow
  exact ⟨c, v, n, by rw [hflags]; rfl, fun h => ⟨(hkept h).1, (hkept h).2.1⟩,
    fun h => ⟨(harith h).1, (harith h).2.1⟩⟩

theorem flagsLogic_advance : ∃ c v n,
    (.next (s.flagsLogic.advance 1) : Out) =
      .next { s with cf := c, ovf := v, draws := n, pc := s.pc + 1 } ∧
    (s.params.flagsLogic = .unchanged → c = s.cf ∧ v = s.ovf) := by
  obtain ⟨c, v, n, hflags, hkept⟩ := s.flagsLogic_spec
  exact ⟨c, v, n, by rw [hflags]; rfl, fun h => ⟨(hkept h).1, (hkept h).2.1⟩⟩

theorem flagsStep_advance : ∃ c v n,
    (.next (s.flagsStep.advance 1) : Out) =
      .next { s with cf := c, ovf := v, draws := n, pc := s.pc + 1 } ∧
    (s.params.flagsStep = .unchanged → c = s.cf ∧ v = s.ovf) := by
  obtain ⟨c, v, n, hflags, hkept⟩ := s.flagsStep_spec
  exact ⟨c, v, n, by rw [hflags]; rfl, fun h => ⟨(hkept h).1, (hkept h).2.1⟩⟩

end Flags

end Sys2Proof.Execution

/-! PROOFS. What an instruction leaves alone (10_state.md R10 to R25): one lemma over all 73 instructions, the
step's invariant, and the statements settled with them. -/

namespace Sys2Proof.Frames

open Sys2Proof.Machine Sys2Proof.Claims Sys2Proof.Encoding Sys2Proof.Storage Sys2Proof.Execution

/-- What `t` keeps of `s` where `i` has run: everything that `i` is no writer of, and of memory the canonical
form and every word that is not `ram` (`Stores`). A field that is not given is checked by computing: `i` is a
writer, or `t` has the field of `s`. -/
structure Keeps (i : Instr) (s t : State) : Prop where
  stores : s.mem.Stores s.params t.mem := by exact .none _
  params : t.params = s.params := by rfl
  ac : writesAc s.params i = false → t.ac = s.ac := by first | exact fun _ => rfl | nofun
  ix : writesIx s.params i = false → t.ix = s.ix := by first | exact fun _ => rfl | nofun
  iy : writesIy s.params i = false → t.iy = s.iy := by first | exact fun _ => rfl | nofun
  sp : writesSp i = false → t.sp = s.sp := by first | exact fun _ => rfl | nofun
  cf : writesCf s.params i = false → t.cf = s.cf := by first | exact fun _ => rfl | nofun
  ovf : writesOvf s.params i = false → t.ovf = s.ovf := by first | exact fun _ => rfl | nofun
  mem : writesMem i = false → t.mem = s.mem := by first | exact fun _ => rfl | nofun
  ioLog : (∀ f m, i ≠ .inp f m) → (∀ f m, i ≠ .out f m) → t.ioLog = s.ioLog := by exact fun _ _ => rfl
  ie : t.ie = if i = .eni ∨ i = .rti then true else if i = .dii ∨ i = .brk then false else s.ie := by rfl
  halt : t.halt = if i = .hlt then true else s.halt := by rfl
  irqScript : t.irqScript = s.irqScript := by rfl

/-- Only the post-increment forms latch a pointer, and they are writers of memory. -/
theorem bumped_of_not_writesMem {i : Instr} {f : Form} {m : Word} (hopd : i.operand = some (f, m))
    (h : writesMem i = false) (s : State) (mem : Memory) : bumped s f m mem = mem := by
  refine bumped_of_no_pointer ?_ mem
  rw [resolve_pointer]
  cases f with
  | postInc | postIncIndexed x => unfold writesMem at h; simp only [hopd] at h; split at h <;> cases h
  | immediate | direct | indirect | indexed x | indirectIndexed x => rfl

/-! A parameter that keeps the flags takes its instructions off the lists of writers (R99). -/

theorem accUnary_unchanged {p : Params} (h : (p.flagsAccUnary != .unchanged) = false) :
    p.flagsAccUnary = .unchanged := by simpa using h

theorem logic_unchanged {p : Params} (h : (p.flagsLogic != .unchanged) = false) :
    p.flagsLogic = .unchanged := by simpa using h

theorem step_unchanged {p : Params} (h : (p.flagsStep != .unchanged) = false) :
    p.flagsStep = .unchanged := by simpa using h

/-- Outcomes that go on agree in their state. -/
theorem next_unique {o : Out} {t u : State} (h : o = .next t) (h' : o = .next u) : u = t :=
  Host.Outcome.next.inj (h'.symm.trans h)

/-- AND, ORA and XOR write AC, and the flags if `FLAGS_LOGIC` says so. -/
theorem logic_next {i : Instr} {f : Form} {m : Word} {s t : State}
    (hi : i = .and f m ∨ i = .ora f m ∨ i = .xor f m) (h : exec i s = .next t) : ∃ w c v n,
    (s.params.flagsLogic = .unchanged → c = s.cf ∧ v = s.ovf) ∧
    t = { fetched s f m with ac := w, cf := c, ovf := v, draws := n } := by
  rcases hi with rfl | rfl | rfl
  · obtain ⟨c, v, n, hlogic, hkept⟩ := exec_and s f m
    exact ⟨_, c, v, n, hkept, next_unique hlogic h⟩
  · obtain ⟨c, v, n, hlogic, hkept⟩ := exec_ora s f m
    exact ⟨_, c, v, n, hkept, next_unique hlogic h⟩
  · obtain ⟨c, v, n, hlogic, hkept⟩ := exec_xor s f m
    exact ⟨_, c, v, n, hkept, next_unique hlogic h⟩

theorem store_keeps (r : Reg) {f : Form} {m : Word} {s t : State}
    (h : exec (r.storeInstr f m) s = .next t) : Keeps (r.storeInstr f m) s t := by
  by_cases hne : f = .immediate
  · subst hne
    cases (exec_store_immediate s m r).symm.trans h
  · obtain ⟨ea, n, -, hstore⟩ := exec_store s m r hne
    obtain rfl := next_unique hstore h
    have hstores := (stores_stored s.params s.mem ea (r.read s)).trans (stores_bumped s f m _)
    cases r <;> exact { stores := hstores }

theorem exec_keeps {i : Instr} {s t : State} (h : exec i s = .next t) : Keeps i s t := by
  cases i with
  | set | clr | shl | lsr | asr | rol | ror | scf | ccf | bsw | bsl | bsr | eni | dii | nop | hlt
  | max | may | mas | mxa | mya | msa =>
    cases h
    exact {}
  | inc | dec | neg =>
    obtain ⟨c, v, n, hflags, hkept, -⟩ := flagsAccUnary_advance s _ _ _
    obtain rfl := next_unique hflags h
    exact { cf := fun hw => (hkept (accUnary_unchanged hw)).1, ovf := fun hw => (hkept (accUnary_unchanged hw)).2 }
  | com =>
    obtain ⟨c, v, n, hflags, hkept⟩ := flagsLogic_advance _
    obtain rfl := next_unique hflags h
    exact { cf := fun hw => (hkept (logic_unchanged hw)).1, ovf := fun hw => (hkept (logic_unchanged hw)).2 }
  | inx | iny | ins | dex | dey | des =>
    obtain ⟨c, v, n, hflags, hkept⟩ := flagsStep_advance _
    obtain rfl := next_unique hflags h
    exact { cf := fun hw => (hkept (step_unchanged hw)).1, ovf := fun hw => (hkept (step_unchanged hw)).2 }
  | lsw =>
    obtain ⟨v, n, hread, -⟩ := s.readSwitches_spec
    simp only [exec, execLsw, hread] at h
    cases h
    exact {}
  | psa | psx | psy =>
    simp only [exec, execPsa, execPsx, execPsy, push_eq] at h
    cases h
    exact { stores := stores_stored _ _ _ _ }
  | psf =>
    obtain ⟨w, n, hpack, -⟩ := s.frPack_spec
    simp only [exec, execPsf, hpack, push_eq] at h
    cases h
    exact { stores := stores_stored _ _ _ _ }
  | poa | pof | pox | poy | rtn =>
    obtain ⟨v, n, hpop, -⟩ := s.pop_spec
    simp only [exec, execPoa, execPof, execPox, execPoy, execRtn, hpop] at h
    cases h
    exact {}
  | rti =>
    by_cases hpc : FrameItem.pc ∈ s.params.trapFrame
    · obtain ⟨ac, ix, iy, c, v, sp, n, pc, hret, hac, hix, hiy, hfr⟩ := s.trapReturn_spec hpc
      obtain rfl := next_unique hret h
      exact {
        ac := fun hw => hac (by simpa [writesAc] using hw)
        ix := fun hw => hix (by simpa [writesIx] using hw)
        iy := fun hw => hiy (by simpa [writesIy] using hw)
        cf := fun hw => (hfr (by simpa [writesCf, writesOvf] using hw)).1
        ovf := fun hw => (hfr (by simpa [writesOvf] using hw)).2 }
    · cases (trapReturn_of_no_pc hpc).symm.trans h
  | brk =>
    obtain ⟨mem, n, sp, pc, henter, hstores, -⟩ := s.trapEnter_spec (s.pc + 1) brkAddress
    obtain rfl := next_unique (congrArg Host.Outcome.next henter) h
    exact { stores := hstores }
  | lda f m | lds f m | ldx f m | ldy f m | add f m | adc f m | sub f m | sbc f m =>
    simp only [exec_lda, exec_lds, exec_ldx, exec_ldy, exec_add, exec_adc, exec_sub, exec_sbc] at h
    cases h
    exact { stores := stores_bumped s f m _, mem := fun hw => bumped_of_not_writesMem rfl hw s _ }
  | and f m | ora f m | xor f m =>
    obtain ⟨w, c, v, n, hkept, rfl⟩ := logic_next (f := f) (m := m) (by simp) h
    exact { stores := stores_bumped s f m _, mem := fun hw => bumped_of_not_writesMem rfl hw s _
            cf := fun hw => (hkept (logic_unchanged hw)).1, ovf := fun hw => (hkept (logic_unchanged hw)).2 }
  | jmp f m | joz f m | jnz f m | jpl f m | jmi f m | joc f m | jnc f m | jov f m | jnv f m =>
    simp only [exec_jmp, exec_joz, exec_jnz, exec_jpl, exec_jmi, exec_joc, exec_jnc, exec_jov, exec_jnv] at h
    cases h
    exact { stores := stores_bumped s f m _, mem := fun hw => bumped_of_not_writesMem rfl hw s _ }
  | csr f m =>
    cases hadm : FormSet.f4.admits f with
    | false => cases (exec_csr_of_not_admits s m hadm).symm.trans h
    | true =>
      obtain rfl := next_unique (exec_csr s m hadm) h
      exact { stores := (stores_stored _ _ _ _).trans (stores_bumped s f m _) }
  | sta f m => exact store_keeps .ac h
  | sts f m => exact store_keeps .sp h
  | stx f m => exact store_keeps .ix h
  | sty f m => exact store_keeps .iy h
  | inp f m =>
    by_cases hne : f = .immediate
    · subst hne
      cases (exec_inp_immediate s m).symm.trans h
    · obtain ⟨ea, v, n, -, hinp, -⟩ := exec_inp s m hne
      obtain rfl := next_unique hinp h
      exact { stores := stores_bumped s f m _, mem := fun hw => bumped_of_not_writesMem rfl hw s _
              ioLog := fun hi _ => absurd rfl (hi f m) }
  | out f m =>
    by_cases hne : f = .immediate
    · subst hne
      cases (exec_out_immediate s m).symm.trans h
    · obtain ⟨ea, n, -, hout⟩ := exec_out s m hne
      obtain rfl := next_unique hout h
      exact { stores := stores_bumped s f m _, mem := fun hw => bumped_of_not_writesMem rfl hw s _
              ioLog := fun _ ho => absurd rfl (ho f m) }
  | isz f m | dsz f m =>
    simp only [exec, execIsz, execDsz] at h
    obtain ⟨mem, c, v, n, pc, rfl, hstores, hkept⟩ := countAndSkip_next s m h
    exact { stores := hstores, cf := fun hw => (hkept (step_unchanged hw)).1
            ovf := fun hw => (hkept (step_unchanged hw)).2 }

/-! The invariants of an instruction, read off its frame. -/

/-- Settles O51. -/
theorem registersAreWrittenOnlyByTheirWriters : Obligations.RegistersAreWrittenOnlyByTheirWriters :=
  fun _ _ _ h => ⟨(exec_keeps h).ac, (exec_keeps h).ix, (exec_keeps h).iy, (exec_keeps h).sp⟩

/-- Settles O52. -/
theorem flagsAreWrittenOnlyByTheirWriters : Obligations.FlagsAreWrittenOnlyByTheirWriters :=
  fun _ _ _ h => ⟨(exec_keeps h).cf, (exec_keeps h).ovf⟩

/-- Settles O53. -/
theorem controlBitsAreWrittenOnlyByTheirWriters : Obligations.ControlBitsAreWrittenOnlyByTheirWriters :=
  fun _ _ _ h => ⟨(exec_keeps h).ie, (exec_keeps h).halt⟩

/-- An input in the immediate form does not complete; in any other it records what it loads. -/
theorem inp_event {f : Form} {m : Word} {s t : State} (h : exec (.inp f m) s = .next t) :
    ∃ port v, t.ioLog = s.ioLog ++ [.read port v] ∧ t.ac = v := by
  by_cases hne : f = .immediate
  · subst hne
    cases (exec_inp_immediate s m).symm.trans h
  · obtain ⟨ea, v, n, -, hinp, -⟩ := exec_inp s m hne
    obtain rfl := next_unique hinp h
    exact ⟨ea, v, rfl, rfl⟩

theorem out_event {f : Form} {m : Word} {s t : State} (h : exec (.out f m) s = .next t) :
    ∃ port, t.ioLog = s.ioLog ++ [.write port s.ac] := by
  by_cases hne : f = .immediate
  · subst hne
    cases (exec_out_immediate s m).symm.trans h
  · obtain ⟨ea, n, -, hout⟩ := exec_out s m hne
    obtain rfl := next_unique hout h
    exact ⟨ea, rfl⟩

/-- Settles O45: the events of the two I/O instructions, and the frame of every other. -/
theorem oneEventPerInputOrOutput : Obligations.OneEventPerInputOrOutput := by
  refine fun i s t h => ⟨?_, ?_, (exec_keeps h).ioLog⟩
  · rintro ⟨f, m, rfl⟩
    exact inp_event h
  · rintro ⟨f, m, rfl⟩
    exact out_event h

/-! The invariants of a step. -/

/-- A step stores whole words at `ram` addresses and leaves the parameters: an interrupt entry pushes, and an
instruction keeps its frame. -/
theorem step_stores {s t : State} (h : step s = .next t) :
    s.mem.Stores s.params t.mem ∧ t.params = s.params := by
  obtain ⟨-, -, l, n, ⟨-, rfl⟩ | ⟨i, hexec⟩⟩ := step_next s h
  · obtain ⟨mem, n', sp, pc, henter, hstores, -⟩ :=
      State.trapEnter_spec { s with irqScript := l, draws := n } s.pc s.params.irqAddress
    rw [henter]
    exact ⟨hstores, rfl⟩
  · exact ⟨(exec_keeps hexec).stores, (exec_keeps hexec).params⟩

/-- Settles O55: stores of whole words keep the canonical form and whole words. -/
theorem stepKeepsTheInvariant : Obligations.StepKeepsTheInvariant := by
  rintro s t ⟨hwf, hwhole, hparams⟩ h
  obtain ⟨hstores, hsame⟩ := step_stores h
  exact ⟨⟨hstores.wf hwf, hstores.whole hwhole, hsame ▸ hparams⟩, hsame⟩

/-- Settles O54: an instruction keeps its frame, and a step stores at `ram` addresses only. -/
theorem memoryIsWrittenOnlyByItsWriters : Obligations.MemoryIsWrittenOnlyByItsWriters :=
  ⟨fun _ _ _ h => (exec_keeps h).mem, fun _ _ _ h hb => (step_stores h).1.word_of_ne_ram hb⟩

/-! Reset (R230). -/

/-- Settles O56. -/
theorem resetSetsPcIeHalt : Obligations.ResetSetsPcIeHalt :=
  ⟨fun _ => ⟨rfl, rfl, rfl⟩, rfl, rfl⟩

theorem inv_resetWith {p : Params} (h : acceptedParams p = true) : Inv (State.resetWith p) :=
  ⟨Memory.wf_nil, Memory.whole_nil, h⟩

/-- Settles O57: memory lists nothing at reset, and the default parameters are accepted. -/
theorem invariantHoldsAtReset : Obligations.InvariantHoldsAtReset :=
  ⟨inv_resetWith (by decide), fun _ => inv_resetWith⟩

/-! Completion (R201). -/

/-- What U10 and U17 ask of the parameters. -/
theorem acceptedParams_iff {p : Params} : acceptedParams p = true ↔
    p.frCfBit ≠ p.frOvfBit ∧ p.trapFrame.Nodup ∧ FrameItem.pc ∈ p.trapFrame := by
  simp only [acceptedParams, Bool.and_eq_true, decide_eq_true_eq, List.contains_iff_mem, and_assoc]

/-- Every well-formed instruction but ISZ and DSZ answers a next state. -/
theorem exec_completes {i : Instr} {s : State} (hwf : i.wf = true) (hpc : FrameItem.pc ∈ s.params.trapFrame)
    (hisz : ∀ f m, i ≠ .isz f m) (hdsz : ∀ f m, i ≠ .dsz f m) : ∃ t, exec i s = .next t := by
  cases i with
  | rti =>
    obtain ⟨_, _, _, _, _, _, _, _, hret, -⟩ := s.trapReturn_spec hpc
    exact ⟨_, hret⟩
  | jmp f m | joz f m | jnz f m | jpl f m | jmi f m | joc f m | jnc f m | jov f m | jnv f m =>
    simp [exec_jmp, exec_joz, exec_jnz, exec_jpl, exec_jmi, exec_joc, exec_jnc, exec_jov, exec_jnv]
  | sta f m =>
    obtain ⟨_, _, -, h⟩ := exec_store s m .ac (ne_immediate_of_f12 hwf)
    exact ⟨_, h⟩
  | sts f m =>
    obtain ⟨_, _, -, h⟩ := exec_store s m .sp (ne_immediate_of_f12 hwf)
    exact ⟨_, h⟩
  | stx f m =>
    obtain ⟨_, _, -, h⟩ := exec_store s m .ix (ne_immediate_of_f12 hwf)
    exact ⟨_, h⟩
  | sty f m =>
    obtain ⟨_, _, -, h⟩ := exec_store s m .iy (ne_immediate_of_f12 hwf)
    exact ⟨_, h⟩
  | inp f m =>
    obtain ⟨_, _, _, -, h, -⟩ := exec_inp s m (ne_immediate_of_f12 hwf)
    exact ⟨_, h⟩
  | out f m =>
    obtain ⟨_, _, -, h⟩ := exec_out s m (ne_immediate_of_f12 hwf)
    exact ⟨_, h⟩
  | csr f m => exact ⟨_, exec_csr s m hwf⟩
  | isz f m => exact absurd rfl (hisz f m)
  | dsz f m => exact absurd rfl (hdsz f m)
  | _ => exact ⟨_, rfl⟩

/-- A counting instruction stops only in its skip, at a word of unknown length. -/
theorem countAndSkip_stops {s : State} {f : Form} {m : Word} (hadm : FormSet.f11.admits f = true) (i : Instr)
    (count : Word → Word) : ∃ ea old,
    (resolve f m s).1.ea = some ea ∧ old = ((resolve f m s).2.readWord ea).1 ∧
    ((∃ t, countAndSkip i f m count s = .next t ∧ t.params = s.params) ∨
     (count old = 0 ∧ ∃ w left, countAndSkip i f m count s = .fault (.undefinedOpcode w left) ∧
        opcodeLength w = none ∧
        (kindAt s.params (s.pc + 2) ≠ .absent → w = left.mem.word (s.pc + 2))) ∨
     (count old = 0 ∧ ∃ left, countAndSkip i f m count s = .fault (.unloadedFetch (s.pc + 2) left) ∧
        kindAt s.params (s.pc + 2) ≠ .absent ∧ left.mem.loaded (s.pc + 2) = false)) := by
  obtain ⟨ea, hea, hcount⟩ := countAndSkip_eq s m hadm
  obtain ⟨c, v, n, -, heq⟩ := hcount i count _ rfl
  refine ⟨ea, _, hea, rfl, ?_⟩
  split at heq
  next hzero =>
    obtain ⟨w, k, hread, ⟨hskip, hpresent, hloaded⟩ | ⟨-, ⟨hlen, hskip⟩ | ⟨len, -, hskip⟩⟩⟩ := State.skip_spec
      (counted s (bumped s f m (stored s.params s.mem ea (count ((resolve f m s).2.readWord ea).1))) c v n)
    · exact .inr (.inr ⟨hzero, _, heq.trans hskip, hpresent, hloaded⟩)
    · refine .inr (.inl ⟨hzero, w, _, heq.trans hskip, hlen, fun hpresent => ?_⟩)
      exact (congrArg Prod.fst (hread.symm.trans (State.readWord_of_present _ hpresent)) :)
    · exact .inl ⟨_, heq.trans hskip, rfl⟩
  next => exact .inl ⟨_, heq, rfl⟩

/-- Settles O50: by completion and the frame, and for the counting instructions by their skip. -/
theorem everyInstructionCompletesButForSkips : Obligations.EveryInstructionCompletesButForSkips := by
  refine ⟨fun i s hwf hparams hisz hdsz => ?_, fun f m s hadm => countAndSkip_stops hadm (.isz f m) (fun w => w + 1),
    fun f m s hadm => countAndSkip_stops hadm (.dsz f m) (fun w => w - 1)⟩
  obtain ⟨-, -, hpc⟩ := acceptedParams_iff.mp hparams
  obtain ⟨t, h⟩ := exec_completes hwf hpc hisz hdsz
  exact ⟨t, h, (exec_keeps h).params⟩

end Sys2Proof.Frames

/-! PROOFS. The machine's bit expressions in numbers: shifts, byte moves, and the flags of addition and
subtraction (40_zero_address_accumulator.md, 44_memref_arith_logic.md R158, R159). -/

namespace Sys2Proof.Numbers

open Sys2Proof.Machine Sys2Proof.Claims

/-! Bits and signs of a word. -/

theorem getLsbD_fifteen (w : Word) : w.getLsbD 15 = decide (32768 ≤ w.toNat) := by
  rw [← BitVec.msb_eq_decide w, BitVec.msb_eq_getLsbD_last]

theorem getLsbD_zero_eq (w : Word) : w.getLsbD 0 = decide (w.toNat % 2 = 1) := by
  rw [← BitVec.testBit_toNat, Nat.testBit_zero]

theorem toInt_eq (w : Word) : w.toInt = if w.toNat < 32768 then (w.toNat : Int) else w.toNat - 65536 := by
  rw [BitVec.toInt_eq_toNat_cond]
  split <;> split <;> omega

theorem msb_eq (w : Word) : w.msb = decide (32768 ≤ w.toNat) := BitVec.msb_eq_decide w

/-- The sign bit says that the signed value is negative. -/
theorem getLsbD_fifteen_eq_neg (w : Word) : w.getLsbD 15 = decide (w.toInt < 0) := by
  have := w.isLt
  rw [getLsbD_fifteen, decide_eq_decide, toInt_eq]
  split <;> omega

theorem toNat_append_eq {a b : Nat} (x : BitVec a) (y : BitVec b) :
    (x ++ y).toNat = 2 ^ b * x.toNat + y.toNat := by
  rw [BitVec.toNat_append, ← Nat.shiftLeft_add_eq_or_of_lt y.isLt, Nat.shiftLeft_eq, Nat.mul_comm]

/-! Moves by one place and by one byte (R106 to R116). -/

/-- The left moves: bits 14:0 go up one place and `b` enters at bit 0. -/
theorem shiftIn_low (w : Word) (b : Bool) :
    w.extractLsb' 0 15 ++ BitVec.ofBool b = BitVec.ofNat 16 (2 * w.toNat + b.toNat) := by
  apply BitVec.eq_of_toNat_eq
  rw [toNat_append_eq, BitVec.extractLsb'_toNat, BitVec.toNat_ofBool, BitVec.toNat_ofNat, Nat.shiftRight_zero]
  have := b.toNat_lt
  omega

/-- The right moves: bits 15:1 go down one place and `b` enters at bit 15. -/
theorem shiftIn_high (w : Word) (b : Bool) :
    BitVec.ofBool b ++ w.extractLsb' 1 15 = BitVec.ofNat 16 (w.toNat / 2 + 32768 * b.toNat) := by
  apply BitVec.eq_of_toNat_eq
  rw [toNat_append_eq, BitVec.extractLsb'_toNat, BitVec.toNat_ofBool, BitVec.toNat_ofNat, Nat.shiftRight_one]
  have := w.isLt
  have := b.toNat_lt
  omega

/-- The arithmetic right move halves the signed value, rounding down. -/
theorem shiftIn_sign (w : Word) :
    BitVec.ofBool (w.getLsbD 15) ++ w.extractLsb' 1 15 = BitVec.ofInt 16 (w.toInt / 2) := by
  have := w.isLt
  rw [shiftIn_high, getLsbD_fifteen, toInt_eq]
  apply BitVec.eq_of_toNat_eq
  rw [BitVec.toNat_ofNat, BitVec.toNat_ofInt]
  by_cases h : 32768 ≤ w.toNat
  · simp only [h, decide_true, Bool.toNat_true, if_neg (Nat.not_lt.mpr h)]
    omega
  · simp only [h, decide_false, Bool.toNat_false, if_pos (Nat.lt_of_not_le h)]
    omega

theorem toNat_opByte (w : Word) : (opByte w).toNat = w.toNat % 256 := by
  rw [opByte, BitVec.extractLsb'_toNat, Nat.shiftRight_zero]

theorem toNat_modeByte (w : Word) : (modeByte w).toNat = w.toNat / 256 := by
  have := w.isLt
  rw [modeByte, BitVec.extractLsb'_toNat, Nat.shiftRight_eq_div_pow]
  omega

theorem swap_bytes (w : Word) :
    opByte w ++ modeByte w = BitVec.ofNat 16 (256 * (w.toNat % 256) + w.toNat / 256) := by
  have := w.isLt
  apply BitVec.eq_of_toNat_eq
  rw [toNat_append_eq, toNat_opByte, toNat_modeByte, BitVec.toNat_ofNat]
  omega

theorem byte_left (w : Word) : opByte w ++ (0x00 : Byte) = BitVec.ofNat 16 (256 * w.toNat) := by
  apply BitVec.eq_of_toNat_eq
  rw [toNat_append_eq, toNat_opByte, BitVec.toNat_ofNat]
  simp only [BitVec.ofNat_eq_ofNat, BitVec.toNat_ofNat]
  omega

theorem byte_right (w : Word) : (0x00 : Byte) ++ modeByte w = BitVec.ofNat 16 (w.toNat / 256) := by
  have := w.isLt
  apply BitVec.eq_of_toNat_eq
  rw [toNat_append_eq, toNat_modeByte, BitVec.toNat_ofNat]
  simp only [BitVec.ofNat_eq_ofNat, BitVec.toNat_ofNat]
  omega

/-! Steps by one, complement and negation. -/

theorem succ_eq (w : Word) : w + 1 = BitVec.ofNat 16 (w.toNat + 1) := by
  apply BitVec.eq_of_toNat_eq
  simp

theorem pred_eq (w : Word) : w - 1 = BitVec.ofNat 16 (w.toNat + 65535) := by
  apply BitVec.eq_of_toNat_eq
  simp [BitVec.toNat_sub, Nat.add_comm]

theorem pred_eq_ofInt (w : Word) : w - 1 = BitVec.ofInt 16 ((w.toNat : Int) - 1) := by
  have := w.isLt
  apply BitVec.eq_of_toNat_eq
  rw [BitVec.toNat_ofInt, BitVec.toNat_sub]
  simp only [BitVec.ofNat_eq_ofNat, BitVec.toNat_ofNat]
  omega

theorem neg_eq_ofInt (w : Word) : 0 - w = BitVec.ofInt 16 (-(w.toNat : Int)) := by
  have := w.isLt
  apply BitVec.eq_of_toNat_eq
  rw [BitVec.toNat_ofInt, BitVec.toNat_sub]
  simp only [BitVec.ofNat_eq_ofNat, BitVec.toNat_ofNat]
  omega

theorem not_eq (w : Word) : ~~~w = BitVec.ofNat 16 (65535 - w.toNat) := by
  have := w.isLt
  apply BitVec.eq_of_toNat_eq
  rw [BitVec.toNat_not, BitVec.toNat_ofNat]
  omega

/-! Flags of the unary operations (R100, R101, R103). -/

theorem eq_literal_iff (w : Word) (n : Nat) : w = BitVec.ofNat 16 n ↔ w.toNat = n % 65536 := by
  rw [← BitVec.toNat_inj, BitVec.toNat_ofNat]

theorem inc_carry (w : Word) : decide (w = 0xFFFF) = decide (65536 ≤ w.toNat + 1) := by
  have := w.isLt
  simp only [decide_eq_decide, BitVec.ofNat_eq_ofNat, eq_literal_iff, Nat.reduceMod]
  omega

theorem inc_overflow (w : Word) : decide (w = 0x7FFF) = outsideSigned (w.toInt + 1) := by
  have := w.isLt
  simp only [outsideSigned, decide_eq_decide, BitVec.ofNat_eq_ofNat, eq_literal_iff, Nat.reduceMod, toInt_eq]
  split <;> omega

theorem dec_borrow (w : Word) : decide (w = 0x0000) = decide ((w.toNat : Int) - 1 < 0) := by
  simp only [decide_eq_decide, BitVec.ofNat_eq_ofNat, eq_literal_iff, Nat.reduceMod]
  omega

theorem dec_overflow (w : Word) : decide (w = 0x8000) = outsideSigned (w.toInt - 1) := by
  have := w.isLt
  simp only [outsideSigned, decide_eq_decide, BitVec.ofNat_eq_ofNat, eq_literal_iff, Nat.reduceMod, toInt_eq]
  split <;> omega

theorem neg_borrow (w : Word) : decide (w ≠ 0x0000) = decide (-(w.toNat : Int) < 0) := by
  simp only [decide_eq_decide, ne_eq, BitVec.ofNat_eq_ofNat, eq_literal_iff, Nat.reduceMod]
  omega

theorem neg_overflow (w : Word) : decide (w = 0x8000) = outsideSigned (-w.toInt) := by
  have := w.isLt
  simp only [outsideSigned, decide_eq_decide, BitVec.ofNat_eq_ofNat, eq_literal_iff, Nat.reduceMod, toInt_eq]
  split <;> omega

/-- `SUB_CARRY`: the model's flag for a borrow is the statements'. -/
theorem borrowFlag_eq (s : State) (b : Bool) : borrowFlag s.params.subCarry b = borrowAsFlag s b := by
  unfold borrowFlag borrowAsFlag
  cases s.params.subCarry <;> rfl

/-! Flags of addition and subtraction (R158, R159). -/

/-- The overflow test on sign bits is the test on the signed sum. -/
theorem addC_overflow (a b : Word) (c : Bool) :
    (addC a b c).overflow = outsideSigned (a.toInt + b.toInt + c.toNat) := by
  have := a.isLt
  have := b.isLt
  have := c.toNat_lt
  rw [Bool.eq_iff_iff]
  simp only [addC, outsideSigned, msb_eq, BitVec.toNat_ofNat, toInt_eq, Bool.and_eq_true,
    beq_iff_eq, bne_iff_ne, ne_eq, decide_eq_true_eq, decide_eq_decide]
  split <;> split <;> omega

theorem subB_overflow (a b : Word) (c : Bool) :
    (subB a b c).overflow = outsideSigned (a.toInt - b.toInt - c.toNat) := by
  have := a.isLt
  have := b.isLt
  have := c.toNat_lt
  rw [Bool.eq_iff_iff]
  simp only [subB, outsideSigned, msb_eq, BitVec.toNat_ofInt, toInt_eq, Bool.and_eq_true,
    bne_iff_ne, ne_eq, decide_eq_true_eq, decide_eq_decide]
  split <;> split <;> omega

theorem subB_borrow (a b : Word) (c : Bool) : (subB a b c).carry = decide (a.toNat < b.toNat + c.toNat) := by
  simp only [subB, decide_eq_decide]
  omega

end Sys2Proof.Numbers

/-! PROOFS. The one-word instructions on the accumulator, the registers and the stack
(40_zero_address_accumulator.md, 41_zero_address_stack_register.md, RTN of 42_zero_address_control.md): the full
next state of each, and the statements settled with them. -/

namespace Sys2Proof.OneWord

open Sys2Proof.Machine Sys2Proof.Claims Sys2Proof.Decoding Sys2Proof.Storage Sys2Proof.Execution
open Sys2Proof.Numbers

/-! Shifts and rotates (R106 to R110). -/

section Shift

variable (s : State)

theorem exec_shl : exec .shl s = .next { s with
    cf := decide (32768 ≤ s.ac.toNat), ac := BitVec.ofNat 16 (2 * s.ac.toNat), pc := s.pc + 1 } := by
  have hac : s.ac.extractLsb' 0 15 ++ 0#1 = BitVec.ofNat 16 (2 * s.ac.toNat) := shiftIn_low s.ac false
  rw [← getLsbD_fifteen, ← hac]
  rfl

theorem exec_lsr : exec .lsr s = .next { s with
    cf := decide (s.ac.toNat % 2 = 1), ac := BitVec.ofNat 16 (s.ac.toNat / 2), pc := s.pc + 1 } := by
  have hac : 0#1 ++ s.ac.extractLsb' 1 15 = BitVec.ofNat 16 (s.ac.toNat / 2) := shiftIn_high s.ac false
  rw [← getLsbD_zero_eq, ← hac]
  rfl

theorem exec_asr : exec .asr s = .next { s with
    cf := decide (s.ac.toNat % 2 = 1), ac := BitVec.ofInt 16 (s.ac.toInt / 2), pc := s.pc + 1 } := by
  rw [← getLsbD_zero_eq, ← shiftIn_sign]
  rfl

theorem exec_rol : exec .rol s = .next { s with
    cf := decide (32768 ≤ s.ac.toNat), ac := BitVec.ofNat 16 (2 * s.ac.toNat + s.cf.toNat),
    pc := s.pc + 1 } := by
  rw [← getLsbD_fifteen, ← shiftIn_low]
  rfl

theorem exec_ror : exec .ror s = .next { s with
    cf := decide (s.ac.toNat % 2 = 1), ac := BitVec.ofNat 16 (s.ac.toNat / 2 + 32768 * s.cf.toNat),
    pc := s.pc + 1 } := by
  rw [← getLsbD_zero_eq, ← shiftIn_high]
  rfl

end Shift

/-- Settles O12. -/
theorem shiftsAndRotatesByOnePlace : Obligations.ShiftsAndRotatesByOnePlace :=
  ⟨exec_shl, exec_lsr, exec_asr, exec_rol, exec_ror, spelledOne rfl rfl rfl, spelledOne rfl rfl rfl,
    spelledOne rfl rfl rfl, spelledOne rfl rfl rfl, spelledOne rfl rfl rfl⟩

/-! The rotation of the 17 bits of CF and AC. -/

/-- The bits of AC and CF as a ring of 17: bit 16 is CF, and bit 17 is bit 0 again. -/
def ringBit (s : State) (i : Nat) : Bool := if i % 17 = 16 then s.cf else s.ac.getLsbD (i % 17)

theorem getLsbD_shiftIn_low (w : Word) (b : Bool) (i : Nat) :
    (w.extractLsb' 0 15 ++ BitVec.ofBool b).getLsbD i =
      if i = 0 then b else decide (i - 1 < 15) && w.getLsbD (i - 1) := by
  rw [BitVec.getLsbD_append, BitVec.getLsbD_extractLsb', Nat.zero_add]
  by_cases hi : i = 0
  · subst hi
    cases b <;> rfl
  · rw [if_neg hi, if_neg (by omega)]

/-- A ROL moves the ring by one place. -/
theorem ringBit_rol {s t : State} (h : exec .rol s = .next t) (i : Nat) : ringBit t (i + 1) = ringBit s i := by
  cases h
  have hlt : i % 17 < 17 := Nat.mod_lt i (by decide)
  unfold ringBit
  by_cases hcf : i % 17 = 16
  · rw [if_pos hcf, if_neg (by omega), show (i + 1) % 17 = 0 by omega]
    exact getLsbD_shiftIn_low s.ac s.cf 0
  rw [if_neg hcf]
  by_cases htop : i % 17 = 15
  · rw [if_pos (by omega), htop]
    rfl
  · rw [if_neg (by omega), show (i + 1) % 17 = i % 17 + 1 by omega]
    refine (getLsbD_shiftIn_low s.ac s.cf _).trans ?_
    rw [if_neg (by omega), Nat.add_sub_cancel, decide_eq_true (by omega), Bool.true_and]

/-- The ring after a full turn is the ring before it, and the ring determines CF and AC. -/
theorem eq_of_ringBit {s t : State} (h : ∀ i, ringBit t i = ringBit s i) : t.ac = s.ac ∧ t.cf = s.cf := by
  refine ⟨BitVec.eq_of_getLsbD_eq fun i hi => ?_, h 16⟩
  have hbit := h i
  unfold ringBit at hbit
  rwa [if_neg (by omega), if_neg (by omega), Nat.mod_eq_of_lt (by omega)] at hbit

theorem add_ofNat_succ (w : Word) (n : Nat) : w + BitVec.ofNat 16 n + 1 = w + BitVec.ofNat 16 (n + 1) := by
  rw [BitVec.add_assoc, BitVec.ofNat_add]
  rfl

/-- A run of ROLs writes CF, AC and PC only, and moves the ring by as many places. -/
theorem rol_run {r : Nat → State} {k : Nat} (hrun : ∀ n, n < k → exec .rol (r n) = .next (r (n + 1)))
    {n : Nat} (hn : n ≤ k) :
    (∃ a c, r n = { r 0 with ac := a, cf := c, pc := (r 0).pc + BitVec.ofNat 16 n }) ∧
    ∀ i, ringBit (r n) (i + n) = ringBit (r 0) i := by
  induction n with
  | zero => exact ⟨⟨(r 0).ac, (r 0).cf, by simp⟩, fun _ => rfl⟩
  | succ n ih =>
    obtain ⟨⟨a, c, hframe⟩, hring⟩ := ih (by omega)
    have hstep := hrun n (by omega)
    refine ⟨?_, fun i => (ringBit_rol hstep (i + n)).trans (hring i)⟩
    rw [hframe, exec_rol, add_ofNat_succ] at hstep
    exact ⟨_, _, (Host.Outcome.next.inj hstep).symm⟩

theorem rol_seventeen {r : Nat → State} (hrun : ∀ n, n < 17 → exec .rol (r n) = .next (r (n + 1))) :
    r 17 = { r 0 with pc := (r 0).pc + 17 } := by
  obtain ⟨⟨a, c, hframe⟩, hring⟩ := rol_run hrun (Nat.le_refl 17)
  have hturn (i : Nat) : ringBit (r 17) i = ringBit (r 0) i := by
    rw [← hring i]
    simp only [ringBit, Nat.add_mod_right]
  obtain ⟨hac, hcf⟩ := eq_of_ringBit hturn
  rw [hframe] at hac hcf ⊢
  cases hac
  cases hcf
  rfl

/-- ROR takes back the bit that ROL shifted out. -/
theorem ror_after_rol (s : State) :
    ∃ t, exec .rol s = .next t ∧ exec .ror t = .next { s with pc := s.pc + 2 } := by
  refine ⟨_, exec_rol s, ?_⟩
  have := s.ac.isLt
  have := s.cf.toNat_lt
  have hcf : decide ((BitVec.ofNat 16 (2 * s.ac.toNat + s.cf.toNat)).toNat % 2 = 1) = s.cf := by
    cases s.cf <;> simp
  have hac : BitVec.ofNat 16 ((BitVec.ofNat 16 (2 * s.ac.toNat + s.cf.toNat)).toNat / 2 +
      32768 * (decide (32768 ≤ s.ac.toNat)).toNat) = s.ac := by
    apply BitVec.eq_of_toNat_eq
    by_cases h : 32768 ≤ s.ac.toNat <;> simp [h] <;> omega
  have hpc : s.pc + 1 + 1 = s.pc + 2 := by rw [BitVec.add_assoc]; rfl
  rw [exec_ror]
  simp only [hcf, hac, hpc]

/-- Settles O13: ROR takes back what ROL shifted out, and 17 ROLs are a full turn of the ring. -/
theorem rotationIsThroughCarry : Obligations.RotationIsThroughCarry :=
  ⟨ror_after_rol, fun _ => rol_seventeen⟩

/-! Bytes, constants, increments, complement and negation (R100 to R105, R112 to R116). -/

/-- Settles O14. -/
theorem byteMovesOfTheAccumulator : Obligations.ByteMovesOfTheAccumulator := by
  refine ⟨fun s => ?_, fun s => ?_, fun s => ?_, spelledOne rfl rfl rfl, spelledOne rfl rfl rfl,
    spelledOne rfl rfl rfl⟩
  · rw [← swap_bytes]
    rfl
  · rw [← byte_left]
    rfl
  · rw [← byte_right]
    rfl

/-- Settles O15. -/
theorem setAndClear : Obligations.SetAndClear :=
  ⟨fun _ => rfl, fun _ => rfl, fun _ => rfl, fun _ => rfl, spelledOne rfl rfl rfl, spelledOne rfl rfl rfl,
    spelledOne rfl rfl rfl, spelledOne rfl rfl rfl⟩

/-- Settles O16: the result is one addition or subtraction, and the flags are those of `FlagsAccUnary`. -/
theorem incDecNegResults : Obligations.IncDecNegResults := by
  refine ⟨fun s => ?_, fun s => ?_, fun s => ?_, spelledOne rfl rfl rfl, spelledOne rfl rfl rfl,
    spelledOne rfl rfl rfl⟩
  · obtain ⟨c, v, n, hflags, hare⟩ :=
      flagsAccUnary_advance s (s.ac + 1) (decide (s.ac = 0xFFFF)) (decide (s.ac = 0x7FFF))
    rw [inc_carry, inc_overflow] at hare
    exact ⟨c, v, n, by rw [← succ_eq]; exact hflags, hare⟩
  · obtain ⟨c, v, n, hflags, hare⟩ := flagsAccUnary_advance s (s.ac - 1)
      (borrowFlag s.params.subCarry (decide (s.ac = 0x0000))) (decide (s.ac = 0x8000))
    rw [borrowFlag_eq, dec_borrow, dec_overflow] at hare
    exact ⟨c, v, n, by rw [← pred_eq_ofInt]; exact hflags, hare⟩
  · obtain ⟨c, v, n, hflags, hare⟩ := flagsAccUnary_advance s (0 - s.ac)
      (borrowFlag s.params.subCarry (decide (s.ac ≠ 0x0000))) (decide (s.ac = 0x8000))
    rw [borrowFlag_eq, neg_borrow, neg_overflow] at hare
    exact ⟨c, v, n, by rw [← neg_eq_ofInt]; exact hflags, hare⟩

theorem exec_com (s : State) : ∃ c v n, exec .com s = .next { s with
      ac := ~~~s.ac, cf := c, ovf := v, draws := n, pc := s.pc + 1 } ∧
    (s.params.flagsLogic = .unchanged → c = s.cf ∧ v = s.ovf) :=
  flagsLogic_advance (s.setAc (~~~s.ac))

theorem com_ac {s t : State} (h : exec .com s = .next t) : t.ac = ~~~s.ac := by
  obtain ⟨_, _, _, hcom, -⟩ := exec_com s
  cases hcom.symm.trans h
  rfl

/-- Settles O17: the complement in numbers, and complementing twice. -/
theorem comInvertsEveryBit : Obligations.ComInvertsEveryBit := by
  refine ⟨fun s => not_eq s.ac ▸ exec_com s, fun s t u ht hu => ?_, spelledOne rfl rfl rfl⟩
  rw [com_ac hu, com_ac ht, BitVec.not_not]

/-- Settles O18: the switches are read and AC is loaded. -/
theorem lswLoadsTheSwitches : Obligations.LswLoadsTheSwitches := by
  refine ⟨fun s => ?_, spelledOne rfl rfl rfl⟩
  obtain ⟨v, n, hread, hv⟩ := s.readSwitches_spec
  refine ⟨v, n, ?_, fun a l h => (hv a l h).1⟩
  simp only [exec, execLsw, hread]
  rfl

/-! Pushes and pops (R120 to R123, R136 to R139, R142). -/

/-- Settles O19. -/
theorem pushesStoreTheRegister : Obligations.PushesStoreTheRegister := by
  refine ⟨fun s => ⟨_, ?_, wordStored_stored _ _ _ _⟩, fun s => ⟨_, ?_, wordStored_stored _ _ _ _⟩,
    fun s => ⟨_, ?_, wordStored_stored _ _ _ _⟩, spelledOne rfl rfl rfl, spelledOne rfl rfl rfl,
    spelledOne rfl rfl rfl⟩
  · simp only [exec, execPsa, push_eq]
    rfl
  · simp only [exec, execPsx, push_eq]
    rfl
  · simp only [exec, execPsy, push_eq]
    rfl

/-- Settles O20. -/
theorem popsLoadTheRegister : Obligations.PopsLoadTheRegister := by
  refine ⟨fun s => ?_, fun s => ?_, fun s => ?_, spelledOne rfl rfl rfl, spelledOne rfl rfl rfl,
    spelledOne rfl rfl rfl⟩ <;> obtain ⟨v, n, hpop, hv⟩ := s.pop_spec <;> refine ⟨v, n, ?_, hv⟩
  · simp only [exec, execPoa, hpop]
    rfl
  · simp only [exec, execPox, hpop]
    rfl
  · simp only [exec, execPoy, hpop]
    rfl

/-- Settles O27. -/
theorem rtnPopsThePc : Obligations.RtnPopsThePc := by
  refine ⟨fun s => ?_, spelledOne rfl rfl rfl⟩
  obtain ⟨v, n, hpop, hv⟩ := s.pop_spec
  refine ⟨v, n, ?_, hv⟩
  simp only [exec, execRtn, hpop]
  rfl

theorem exec_psf (s : State) : ∃ w n, exec .psf s = .next { s with
      sp := s.spAfterPush, mem := stored s.params s.mem s.pushSlot w, draws := n, pc := s.pc + 1 } ∧
    (s.params.frCfBit ≠ s.params.frOvfBit →
      w.getLsbD s.params.frCfBit.val = s.cf ∧ w.getLsbD s.params.frOvfBit.val = s.ovf) := by
  obtain ⟨w, n, hpack, hcf, hovf⟩ := s.frPack_spec
  refine ⟨w, n, ?_, fun hne => ⟨hcf hne, hovf⟩⟩
  simp only [exec, execPsf, hpack, push_eq]
  rfl

/-- POF of a word popped. -/
theorem exec_pof {s t : State} {w : Word} (hpop : s.pop = (w, t)) : exec .pof s = .next { t with
    cf := w.getLsbD t.params.frCfBit.val, ovf := w.getLsbD t.params.frOvfBit.val, pc := t.pc + 1 } := by
  simp only [exec, execPof, hpop]
  rfl

/-- Settles O21. -/
theorem flagRegisterPushAndPop : Obligations.FlagRegisterPushAndPop := by
  refine ⟨fun s => ?_, fun s => ?_, spelledOne rfl rfl rfl, spelledOne rfl rfl rfl⟩
  · obtain ⟨w, n, hpsf, hbits⟩ := exec_psf s
    exact ⟨w, _, n, hpsf, wordStored_stored _ _ _ _, hbits⟩
  · obtain ⟨w, n, hpop, hw⟩ := s.pop_spec
    exact ⟨w, n, exec_pof hpop, hw⟩

/-- Settles O22: by the law of the stack the word popped is the word pushed. -/
theorem pofAfterPsfRestoresTheFlags : Obligations.PofAfterPsfRestoresTheFlags := by
  intro s t hne hram hpsf h hsp hparams hword
  obtain ⟨w, n, hexec, hbits⟩ := exec_psf s
  cases hexec.symm.trans hpsf
  have hpop := pop_after_push hram hparams hsp (hword.trans (word_stored_same hram))
  rw [exec_pof hpop]
  simp only [hparams, (hbits hne).1, (hbits hne).2]

/-! Steps and moves of the registers (R124 to R135), and control (R140, R141, R144). -/

/-- Settles O23: each is an addition modulo 2^16 and `FlagsStep`. -/
theorem registerStepsByOne : Obligations.RegisterStepsByOne := by
  refine ⟨fun s => ?_, fun s => ?_, fun s => ?_, fun s => ?_, fun s => ?_, fun s => ?_, spelledOne rfl rfl rfl,
    spelledOne rfl rfl rfl, spelledOne rfl rfl rfl, spelledOne rfl rfl rfl, spelledOne rfl rfl rfl,
    spelledOne rfl rfl rfl⟩
  · rw [← succ_eq]
    exact flagsStep_advance (s.setIx (s.ix + 1))
  · rw [← succ_eq]
    exact flagsStep_advance (s.setIy (s.iy + 1))
  · rw [← succ_eq]
    exact flagsStep_advance (s.setSp (s.sp + 1))
  · rw [← pred_eq]
    exact flagsStep_advance (s.setIx (s.ix - 1))
  · rw [← pred_eq]
    exact flagsStep_advance (s.setIy (s.iy - 1))
  · rw [← pred_eq]
    exact flagsStep_advance (s.setSp (s.sp - 1))

/-- Settles O24. -/
theorem registerMovesCopy : Obligations.RegisterMovesCopy :=
  ⟨fun _ => rfl, fun _ => rfl, fun _ => rfl, fun _ => rfl, fun _ => rfl, fun _ => rfl, spelledOne rfl rfl rfl,
    spelledOne rfl rfl rfl, spelledOne rfl rfl rfl, spelledOne rfl rfl rfl, spelledOne rfl rfl rfl,
    spelledOne rfl rfl rfl⟩

/-- Settles O25. -/
theorem eniDiiNop : Obligations.EniDiiNop :=
  ⟨fun _ => rfl, fun _ => rfl, fun _ => rfl, spelledOne rfl rfl rfl, spelledOne rfl rfl rfl,
    spelledOne rfl rfl rfl⟩

end Sys2Proof.OneWord

/-! PROOFS. The two-word instructions (43 to 48 of the spec): the full next state of each in every form, and the
statements settled with them. -/

namespace Sys2Proof.TwoWord

open Sys2Proof.Machine Sys2Proof.Claims Sys2Proof.Encoding Sys2Proof.Decoding Sys2Proof.Storage
open Sys2Proof.Execution Sys2Proof.Numbers

/-! Loads (R150, R151, R190, R191). -/

section Load

variable {s : State} {f : Form} {m ea : Word} {p : Option Word}

/-- LDA where every address it reads is present. -/
theorem lda_of_resolve (hres : resolve f m s = (⟨some ea, p⟩, s)) (hea : kindAt s.params ea ≠ .absent) :
    exec (.lda f m) s =
      .next { s with ac := s.mem.word ea, mem := bumped s f m s.mem, pc := s.pc + 2 } := by
  rw [exec_lda]
  simp only [fetched, datum, drawsAfter, hres, value_of_address, State.readWord_of_present _ hea]

theorem lda_of_no_pointer (hres : resolve f m s = (⟨some ea, none⟩, s)) (hea : kindAt s.params ea ≠ .absent) :
    exec (.lda f m) s = .next { s with ac := s.mem.word ea, pc := s.pc + 2 } := by
  rw [lda_of_resolve hres hea, bumped_of_no_pointer (by rw [hres])]

theorem lda_of_pointer {q : Word} (hres : resolve f m s = (⟨some ea, some q⟩, s))
    (hea : kindAt s.params ea ≠ .absent) : ∃ mem,
    exec (.lda f m) s = .next { s with ac := s.mem.word ea, mem := mem, pc := s.pc + 2 } ∧
    WordStored s.params s.mem mem m (q + 1) := by
  refine ⟨stored s.params s.mem m (q + 1), ?_, wordStored_stored _ _ _ _⟩
  rw [lda_of_resolve hres hea, bumped_of_pointer (p := q) (by rw [hres])]

end Load

/-- Settles O32: form by form from what `Resolve` gives, and in every state from the equation of LDA. -/
theorem ldaReadsTheOperandOfItsForm : Obligations.LdaReadsTheOperandOfItsForm := by
  refine ⟨fun s m => ⟨exec_lda s .immediate m, lda_of_no_pointer (resolve_direct s m),
    fun x => lda_of_no_pointer (resolve_indexed s m x), fun hm => ?_⟩,
    fun s f m => ⟨_, _, _, exec_lda s f m, postIncDone_bumped s f m s.mem⟩, ?_⟩
  · have hread := s.readWord_of_present hm
    exact ⟨fun hea => ⟨lda_of_no_pointer (resolve_indirect hread) hea,
      lda_of_pointer (resolve_postInc hread) hea⟩,
      fun x hea => ⟨lda_of_no_pointer (resolve_indirectIndexed hread x) hea,
        lda_of_pointer (resolve_postIncIndexed hread x) hea⟩⟩
  · exact spelledTwo (op := 0x01) rfl rfl fun _ => rfl

/-- Settles O33: the four loads differ in the register that takes the datum. -/
theorem loadsFollowLda : Obligations.LoadsFollowLda :=
  ⟨fun s f m => ⟨_, exec_lda s f m, exec_lds s f m, exec_ldx s f m, exec_ldy s f m⟩,
    spelledTwo (op := 0x02) rfl rfl fun _ => rfl, spelledTwo (op := 0x31) rfl rfl fun _ => rfl,
    spelledTwo (op := 0x32) rfl rfl fun _ => rfl⟩

/-! Stores (R152, R153, R192, R193). -/

/-- Settles O34: the register is stored at the resolved address, and then the post-increment. -/
theorem storesWriteTheirRegister : Obligations.StoresWriteTheirRegister := by
  refine ⟨fun r f m s hne => ?_, fun r m s => exec_store_immediate s m r,
    spelledTwo (op := 0x03) rfl rfl fun _ => rfl, spelledTwo (op := 0x04) rfl rfl fun _ => rfl,
    spelledTwo (op := 0x33) rfl rfl fun _ => rfl, spelledTwo (op := 0x34) rfl rfl fun _ => rfl⟩
  obtain ⟨ea, n, hea, hstore⟩ := exec_store s m r hne
  exact ⟨ea, _, _, n, hea, hstore, wordStored_stored _ _ _ _, postIncDone_bumped _ _ _ _⟩

/-! Arithmetic and logic (R160 to R166). -/

/-- Settles O36: `AddC` in numbers. -/
theorem addAndAdcResults : Obligations.AddAndAdcResults := by
  refine ⟨fun s f m => ⟨_, exec_lda s f m, ?_, ?_⟩, spelledTwo (op := 0x05) rfl rfl fun _ => rfl,
    spelledTwo (op := 0x06) rfl rfl fun _ => rfl⟩
  · rw [exec_add, withArith, addC_overflow]
    simp [addC]
  · rw [exec_adc, withArith, addC_overflow]
    simp [addC]

/-- Settles O37: `SubB` in numbers, and the two senses of `SUB_CARRY`. -/
theorem subAndSbcResults : Obligations.SubAndSbcResults := by
  refine ⟨fun s f m => ⟨_, exec_lda s f m, ?_, ?_⟩, spelledTwo (op := 0x07) rfl rfl fun _ => rfl,
    spelledTwo (op := 0x08) rfl rfl fun _ => rfl⟩
  · rw [exec_sub, withArith, subB_overflow, subB_borrow]
    simp [subB, borrowFlag_eq]
  · rw [exec_sbc, withArith, subB_overflow, subB_borrow]
    simp [subB, borrowFlag_eq]

/-- Settles O38. -/
theorem logicResults : Obligations.LogicResults :=
  ⟨fun s f m => ⟨_, exec_lda s f m, exec_and s f m, exec_ora s f m, exec_xor s f m⟩,
    spelledTwo (op := 0x09) rfl rfl fun _ => rfl, spelledTwo (op := 0x0A) rfl rfl fun _ => rfl,
    spelledTwo (op := 0x0B) rfl rfl fun _ => rfl⟩

/-! Skips (R170 to R172). -/

section Skip

variable {u : State} (hpresent : kindAt u.params (u.pc + 2) ≠ .absent)
include hpresent

theorem skip_of_defined (hloaded : u.mem.loaded (u.pc + 2) = true) {len : Nat}
    (hlen : opcodeLength (u.mem.word (u.pc + 2)) = some len) :
    u.skip = .next { u with pc := u.pc + 2 + BitVec.ofNat 16 len } := by
  simp only [State.skip, u.fetchWord_of_loaded hpresent hloaded, hlen]
  rfl

theorem skip_of_undefined (hloaded : u.mem.loaded (u.pc + 2) = true)
    (hlen : opcodeLength (u.mem.word (u.pc + 2)) = none) :
    u.skip = .fault (.undefinedOpcode (u.mem.word (u.pc + 2)) u) := by
  simp only [State.skip, u.fetchWord_of_loaded hpresent hloaded, hlen]

theorem skip_of_unloaded (hloaded : u.mem.loaded (u.pc + 2) = false) :
    u.skip = .fault (.unloadedFetch (u.pc + 2) u) := by
  simp only [State.skip, u.fetchWord_of_unloaded hpresent hloaded]

end Skip

/-- An instruction with the meaning of R170 or R171 counts and skips as the statement says. -/
theorem countsAndSkips {mk : Form → Word → Instr} {count : Word → Word}
    (hmk : ∀ f m s, exec (mk f m) s = countAndSkip (mk f m) f m count s) : CountsAndSkips mk count := by
  intro f m s hadm
  obtain ⟨ea, hea, hcount⟩ := countAndSkip_eq s m hadm
  obtain ⟨c, v, n, hflags, heq⟩ := hcount (mk f m) count _ rfl
  rw [← hmk] at heq
  refine ⟨ea, _, _, _, c, v, n, hea, rfl, wordStored_stored _ _ _ _, postIncDone_bumped _ _ _ _, hflags,
    fun hne => ?_, fun hzero ⟨hpresent, hloaded⟩ => ⟨fun len hlen => ?_, fun hlen => ?_⟩,
    fun hzero hpresent hloaded => ?_⟩
  · rw [heq, if_neg hne]
    rfl
  · rw [heq, if_pos hzero]
    exact skip_of_defined hpresent hloaded hlen
  · rw [heq, if_pos hzero]
    exact skip_of_undefined hpresent hloaded hlen
  · rw [heq, if_pos hzero]
    exact skip_of_unloaded hpresent hloaded

/-- Settles O39. -/
theorem iszAndDszCountAndSkip : Obligations.IszAndDszCountAndSkip :=
  ⟨countsAndSkips fun _ _ _ => rfl, countsAndSkips fun _ _ _ => rfl,
    fun f m s hadm => ⟨countAndSkip_of_not_admits s m hadm (.isz f m) (fun w => w + 1),
      countAndSkip_of_not_admits s m hadm (.dsz f m) (fun w => w - 1)⟩,
    spelledTwo (op := 0x0C) rfl rfl fun _ => rfl, spelledTwo (op := 0x0D) rfl rfl fun _ => rfl⟩

/-! Jumps and call (R179 to R189). -/

theorem beq_zero_eq (w : Word) : (w == 0x0000) = decide (w.toNat = 0) := by
  rw [Bool.eq_iff_iff, beq_iff_eq, decide_eq_true_eq, ← BitVec.toNat_inj]
  rfl

/-- Settles O40: each jump is LDA with PC in place of AC, and its condition in numbers. -/
theorem jumpsGoToTheLoadedTarget : Obligations.JumpsGoToTheLoadedTarget := by
  refine ⟨fun s f m => ?_, spelledTwo (op := 0x0E) rfl rfl fun _ => rfl,
    spelledTwo (op := 0x0F) rfl rfl fun _ => rfl, spelledTwo (op := 0x10) rfl rfl fun _ => rfl,
    spelledTwo (op := 0x11) rfl rfl fun _ => rfl, spelledTwo (op := 0x12) rfl rfl fun _ => rfl,
    spelledTwo (op := 0x13) rfl rfl fun _ => rfl, spelledTwo (op := 0x14) rfl rfl fun _ => rfl,
    spelledTwo (op := 0x15) rfl rfl fun _ => rfl, spelledTwo (op := 0x16) rfl rfl fun _ => rfl⟩
  refine ⟨_, exec_lda s f m, exec_jmp s f m, ?_, ?_, ?_, ?_, exec_joc s f m, ?_, exec_jov s f m, ?_⟩
  · rw [exec_joz, beq_zero_eq]
    simp only [decide_eq_true_eq]
    rfl
  · rw [exec_jnz, bne, beq_zero_eq]
    simp only [Bool.not_eq_true', decide_eq_false_iff_not, ite_not]
    rfl
  · rw [exec_jpl, getLsbD_fifteen_eq_neg]
    simp only [Bool.not_eq_true', decide_eq_false_iff_not, Int.not_lt]
    rfl
  · rw [exec_jmi, getLsbD_fifteen_eq_neg]
    simp only [decide_eq_true_eq]
    rfl
  · rw [exec_jnc]
    cases s.cf <;> rfl
  · rw [exec_jnv]
    cases s.ovf <;> rfl

/-- Settles O41: the push is done after the target is read and before the post-increment. -/
theorem csrPushesTheReturnAddress : Obligations.CsrPushesTheReturnAddress :=
  ⟨fun s f m hadm => ⟨_, _, _, exec_lda s f m, exec_csr s m hadm, wordStored_stored _ _ _ _,
      postIncDone_bumped _ _ _ _⟩,
    fun s _ m hadm => exec_csr_of_not_admits s m hadm, spelledTwo (op := 0x17) rfl rfl fun _ => rfl⟩

theorem exec_rtn {s t : State} {v : Word} (hpop : s.pop = (v, t)) :
    exec .rtn s = .next { t with pc := v } := by
  simp only [exec, execRtn, hpop]
  rfl

/-- Settles O42: the three forms latch no pointer, so the pushed word is the last one stored, and RTN pops
it. -/
theorem rtnUndoesCsr : Obligations.RtnUndoesCsr := by
  intro s t h f m hform hram hcsr hparams hsp hword
  have hplain : FormSet.f4.admits f = true ∧ (resolve f m s).1.pointer = none := by
    rcases hform with rfl | rfl | rfl <;> exact ⟨rfl, rfl⟩
  cases (exec_csr s m hplain.1).symm.trans hcsr
  have hpushed : (bumped s f m (stored s.params s.mem s.pushSlot (s.pc + 2))).word s.pushSlot = s.pc + 2 := by
    rw [bumped_of_no_pointer hplain.2, word_stored_same hram]
  exact exec_rtn (pop_after_push hram hparams hsp (hword.trans hpushed))

/-! Input and output (R194 to R196). -/

theorem inp_opcodeWord (m : Word) : (Instr.inp .immediate m).opcodeWord = 0x0318 := by
  simp only [Instr.opcodeWord, Instr.operand, Form.mode, Instr.op]
  decide

/-- Settles O43. -/
theorem inpReadsThePort : Obligations.InpReadsThePort := by
  refine ⟨fun f m s hne => ?_, fun m s => inp_opcodeWord m ▸ exec_inp_immediate s m,
    spelledTwo (op := 0x18) rfl rfl fun _ => rfl⟩
  obtain ⟨ea, v, n, hea, hinp, hv⟩ := exec_inp s m hne
  exact ⟨ea, v, _, n, hea, hinp, postIncDone_bumped _ _ _ _, hv⟩

theorem out_opcodeWord (m : Word) : (Instr.out .immediate m).opcodeWord = 0x0319 := by
  simp only [Instr.opcodeWord, Instr.operand, Form.mode, Instr.op]
  decide

/-- Settles O44. -/
theorem outWritesThePort : Obligations.OutWritesThePort := by
  refine ⟨fun f m s hne => ?_, fun m s => out_opcodeWord m ▸ exec_out_immediate s m,
    spelledTwo (op := 0x19) rfl rfl fun _ => rfl⟩
  obtain ⟨ea, n, hea, hout⟩ := exec_out s m hne
  exact ⟨ea, _, n, hea, hout, postIncDone_bumped _ _ _ _⟩

end Sys2Proof.TwoWord

/-! PROOFS. Trap entry and return (60_exceptions.md R203, R205; BRK and RTI of 42_zero_address_control.md): where
the words of a frame are stored, what the pops of a frame bring back, and the statements settled with them. -/

namespace Sys2Proof.Traps

open Sys2Proof.Machine Sys2Proof.Claims Sys2Proof.Decoding Sys2Proof.Storage Sys2Proof.Execution
open Sys2Proof.Frames

/-! The movement of SP (R44). -/

/-- What a push adds to SP. -/
def stackStep (s : State) : Word :=
  match s.params.stackModel with
  | .fullDescending | .emptyDescending => -1
  | .fullAscending | .emptyAscending => 1

/-- What lies between SP and the slot of a push. -/
def slotOffset (s : State) : Word :=
  match s.params.stackModel with
  | .fullDescending => -1
  | .fullAscending => 1
  | .emptyDescending | .emptyAscending => 0

theorem spAfterPush_setSp (s : State) (sp : Word) : (s.setSp sp).spAfterPush = sp + stackStep s := by
  unfold State.spAfterPush stackStep
  simp only [State.params_setSp, State.sp_setSp]
  cases s.params.stackModel <;> simp [BitVec.sub_eq_add_neg]

theorem pushSlot_setSp (s : State) (sp : Word) : (s.setSp sp).pushSlot = sp + slotOffset s := by
  unfold State.pushSlot slotOffset
  simp only [State.params_setSp, State.sp_setSp]
  cases s.params.stackModel <;> simp [BitVec.sub_eq_add_neg]

theorem stackStep_descending {s : State}
    (h : s.params.stackModel = .fullDescending ∨ s.params.stackModel = .emptyDescending) : stackStep s = -1 := by
  unfold stackStep
  rcases h with h | h <;> rw [h]

theorem stackStep_ascending {s : State}
    (h : s.params.stackModel = .fullAscending ∨ s.params.stackModel = .emptyAscending) : stackStep s = 1 := by
  unfold stackStep
  rcases h with h | h <;> rw [h]

/-- So many pushes that they do not go round the address space leave SP somewhere else. -/
theorem mul_stackStep_ne_zero (s : State) {n : Nat} (hpos : 0 < n) (hn : n < 65536) :
    BitVec.ofNat 16 n * stackStep s ≠ 0 := by
  have hne : BitVec.ofNat 16 n ≠ 0 := fun h => by
    have := congrArg BitVec.toNat h
    simp only [BitVec.toNat_ofNat, BitVec.ofNat_eq_ofNat] at this
    omega
  unfold stackStep
  cases s.params.stackModel with
  | fullDescending | emptyDescending =>
    rw [mul_neg_one]
    exact neg_ne_zero.mpr hne
  | fullAscending | emptyAscending =>
    rw [mul_one]
    exact hne

/-! The frame in memory. -/

section Frame

variable {s : State} {ret : Word}

theorem pushItem_stored (s : State) (ret : Word) (x : FrameItem) : ∃ w n, ItemSaved s ret x w ∧
    s.pushItem ret x =
      { s with mem := stored s.params s.mem s.pushSlot w, draws := n, sp := s.spAfterPush } := by
  obtain ⟨w, mem, n, hpush, -, hram, hother, hsaved⟩ := s.pushItem_spec ret x
  have hmem : mem = stored s.params s.mem s.pushSlot w := by
    by_cases h : kindAt s.params s.pushSlot = .ram
    · rw [hram h, stored_of_ram h]
    · rw [hother h, stored_of_ne_ram h]
  exact ⟨w, n, hsaved, hmem ▸ hpush⟩

/-- The pushes of a frame, from any SP and memory, store it as the statements' relation says. -/
theorem pushFrame_stored (s : State) (ret : Word) (l : List FrameItem) (sp : Word) (before : Memory) (n : Nat) :
    ∃ spEnd after k, FrameStored s ret l sp before spEnd after ∧
      State.pushFrame { s with sp := sp, mem := before, draws := n } ret l =
        { s with sp := spEnd, mem := after, draws := k } := by
  induction l generalizing sp before n with
  | nil => exact ⟨sp, before, n, ⟨rfl, rfl⟩, rfl⟩
  | cons x rest ih =>
    obtain ⟨w, k, hsaved, hpush⟩ := pushItem_stored { s with sp := sp, mem := before, draws := n } ret x
    obtain ⟨spEnd, after, j, hrest, hframe⟩ :=
      ih (s.setSp sp).spAfterPush (stored s.params before (s.setSp sp).pushSlot w) k
    refine ⟨spEnd, after, j, ⟨w, _, hsaved, wordStored_stored _ _ _ _, hrest⟩, ?_⟩
    rw [State.pushFrame_cons, hpush]
    exact hframe

/-- A byte outside the `ram` slots of a frame is as before. -/
theorem frameStored_lookup {l : List FrameItem} {sp spEnd : Word} {before after : Memory}
    (h : FrameStored s ret l sp before spEnd after) {k : Nat}
    (hk : ∀ a ∈ frameSlots s l sp, kindAt s.params a = .ram → k ≠ lowKey a ∧ k ≠ highKey a) :
    after.lookup k = before.lookup k := by
  induction l generalizing sp before with
  | nil => rw [h.2]
  | cons x rest ih =>
    obtain ⟨w, mid, -, hword, hrest⟩ := h
    rw [ih hrest fun a ha => hk a (List.mem_cons_of_mem _ ha)]
    exact hword.2 k (hk _ List.mem_cons_self)

/-- A word at no `ram` slot of a frame is as before. -/
theorem frameStored_word {l : List FrameItem} {sp spEnd : Word} {before after : Memory}
    (h : FrameStored s ret l sp before spEnd after) {b : Word}
    (hb : ∀ a ∈ frameSlots s l sp, kindAt s.params a = .ram → b ≠ a) : after.word b = before.word b :=
  Memory.word_congr
    (frameStored_lookup h fun a ha hram => ⟨mt lowKey_inj.mp (hb a ha hram), lowKey_ne_highKey b a⟩)
    (frameStored_lookup h fun a ha hram =>
      ⟨(lowKey_ne_highKey a b).symm, mt highKey_inj.mp (hb a ha hram)⟩)

theorem add_mul_succ (sp d : Word) (n : Nat) :
    sp + d + BitVec.ofNat 16 n * d = sp + BitVec.ofNat 16 (n + 1) * d := by
  have hsucc : BitVec.ofNat 16 (n + 1) = BitVec.ofNat 16 n + 1 := BitVec.ofNat_add n 1
  rw [hsucc]
  ring

theorem frameStored_sp {l : List FrameItem} {sp spEnd : Word} {before after : Memory}
    (h : FrameStored s ret l sp before spEnd after) : spEnd = sp + BitVec.ofNat 16 l.length * stackStep s := by
  induction l generalizing sp before with
  | nil => simp [h.1]
  | cons x rest ih =>
    obtain ⟨-, mid, -, -, hrest⟩ := h
    rw [ih hrest, spAfterPush_setSp, add_mul_succ, List.length_cons]

theorem mem_frameSlots {l : List FrameItem} {sp a : Word} (h : a ∈ frameSlots s l sp) :
    ∃ i, i < l.length ∧ a = sp + BitVec.ofNat 16 i * stackStep s + slotOffset s := by
  induction l generalizing sp with
  | nil => cases h
  | cons x rest ih =>
    rcases List.mem_cons.mp h with rfl | h
    · exact ⟨0, by simp, by simp [pushSlot_setSp]⟩
    · obtain ⟨i, hi, rfl⟩ := ih h
      exact ⟨i + 1, by simpa using hi, by rw [spAfterPush_setSp, add_mul_succ]⟩

/-- The slot of the first item is not used again by a frame that fits in the address space. -/
theorem pushSlot_not_mem_frameSlots {l : List FrameItem} {sp : Word} (hl : l.length < 65536) :
    (s.setSp sp).pushSlot ∉ frameSlots s l (s.setSp sp).spAfterPush := by
  intro h
  obtain ⟨i, hi, heq⟩ := mem_frameSlots h
  rw [pushSlot_setSp, spAfterPush_setSp, add_mul_succ] at heq
  refine mul_stackStep_ne_zero s (n := i + 1) (by omega) (by omega) ?_
  have hsp : sp + BitVec.ofNat 16 (i + 1) * stackStep s = sp + 0 := by
    simpa using (add_right_cancel heq).symm
  exact add_left_cancel hsp

end Frame

/-! Trap entry. -/

theorem trapEnter_stored (s : State) (ret target : Word) : ∃ mem sp n pc,
    s.trapEnter ret target = { s with mem := mem, sp := sp, ie := false, pc := pc, draws := n } ∧
    FrameStored s ret s.params.trapFrame s.sp s.mem sp mem ∧
    (s.params.trapEntryMode = .direct → pc = target) ∧
    (s.params.trapEntryMode = .vectored → kindAt s.params target ≠ .absent → pc = mem.word target) := by
  obtain ⟨sp, mem, _, hstored, hpush⟩ := pushFrame_stored s ret s.params.trapFrame s.sp s.mem s.draws
  obtain ⟨mem', n, sp', pc, henter, -, hdirect, hvectored⟩ := s.trapEnter_spec ret target
  obtain ⟨_, _, hframe⟩ := s.trapEnter_frame ret target
  have heq := henter.symm.trans hframe
  obtain rfl : mem' = mem := (congrArg State.mem heq).trans (congrArg State.mem hpush)
  obtain rfl : sp' = sp := (congrArg State.sp heq).trans (congrArg State.sp hpush)
  exact ⟨mem', sp', n, pc, henter, hstored, hdirect, hvectored⟩

theorem exec_brk (s : State) : exec .brk s = .next (s.trapEnter (s.pc + 1) 0xFFFE) := rfl

/-- Settles O28: the frame is stored item by item, and its words are the only ones written. -/
theorem trapEntryChangesOnlyItsOwn : Obligations.TrapEntryChangesOnlyItsOwn := by
  refine ⟨fun s ret target => ?_, exec_brk, spelledOne rfl rfl rfl⟩
  obtain ⟨mem, sp, n, pc, henter, hstored, hdirect, hvectored⟩ := trapEnter_stored s ret target
  have hsp := frameStored_sp hstored
  refine ⟨mem, sp, n, pc, henter, hstored, fun k => frameStored_lookup hstored, fun hdown => ?_, fun hup => ?_,
    hdirect, hvectored, fun b hb => frameStored_word hstored fun a _ hram hba => hb (hba ▸ hram)⟩
  · rw [hsp, stackStep_descending hdown]
    ring
  · rw [hsp, stackStep_ascending hup]
    ring

/-- Settles O29: the general entry with two items, SP going down before each. -/
theorem defaultTrapEntry : Obligations.DefaultTrapEntry := by
  intro s hframe hstack hmode hbits
  have hentry (ret target : Word) : ∃ f mid mem n,
      s.trapEnter ret target =
        { s with mem := mem, sp := s.sp - 2, ie := false, pc := target, draws := n } ∧
      WordStored s.params s.mem mid (s.sp - 1) ret ∧ WordStored s.params mid mem (s.sp - 2) f ∧
      f.getLsbD s.params.frCfBit.val = s.cf ∧ f.getLsbD s.params.frOvfBit.val = s.ovf := by
    obtain ⟨mem, sp, n, pc, henter, hstored, hdirect, -⟩ := trapEnter_stored s ret target
    have hoffset : slotOffset s = -1 := by rw [slotOffset, hstack]
    have hstep : stackStep s = -1 := stackStep_descending (.inl hstack)
    rw [hframe] at hstored
    obtain ⟨_, mid, rfl, hret, f, _, hf, hfr, rfl, rfl⟩ := hstored
    simp only [pushSlot_setSp, spAfterPush_setSp, hoffset, hstep] at henter hret hfr
    have hone : s.sp + -1 = s.sp - 1 := (BitVec.sub_eq_add_neg _ _).symm
    have htwo : s.sp + -1 + -1 = s.sp - 2 := by ring
    rw [hone] at hret
    rw [htwo] at henter hfr
    exact ⟨f, mid, _, n, hdirect hmode ▸ henter, hret, hfr, hf hbits⟩
  obtain ⟨f, mid, mem, n, henter, hwords⟩ := hentry (s.pc + 1) 0xFFFE
  exact ⟨hentry, f, mid, mem, n, (exec_brk s).trans (congrArg Host.Outcome.next henter), hwords⟩

/-! Trap return. -/

/-- A pop in the default discipline, where the word is present. -/
theorem pop_fullDescending {s : State} (hstack : s.params.stackModel = .fullDescending)
    (hpresent : kindAt s.params s.sp ≠ .absent) : s.pop = (s.mem.word s.sp, { s with sp := s.sp + 1 }) := by
  obtain ⟨-, -, hslot, hafter⟩ := stack_fullDescending hstack
  rw [pop_of_present (by rwa [hslot]), hslot, hafter]

/-- RTI once its pops are known. -/
theorem exec_rti_of_popFrame {s t : State} {l : List FrameItem} {pc : Word} (hframe : s.params.trapFrame = l)
    (hpops : s.popFrame none l.reverse = (t, some pc)) : exec .rti s = .next ((t.setIe true).setPc pc) := by
  simp only [exec, execRti, State.trapReturn, hframe, hpops]

/-- Settles O30: a frame with PC by what its pops can change; the default frame pop by pop. -/
theorem rtiPopsTheFrame : Obligations.RtiPopsTheFrame := by
  refine ⟨fun s hpc => ?_, fun s hframe hstack hfr hpc => ?_, fun s => trapReturn_of_no_pc,
    spelledOne rfl rfl rfl⟩
  · obtain ⟨ac, ix, iy, c, v, sp, n, pc, hret, hac, hix, hiy, hfr⟩ := s.trapReturn_spec hpc
    exact ⟨ac, ix, iy, sp, pc, c, v, n, hret, hac, hix, hiy, hfr⟩
  · have hsecond := pop_fullDescending
      (s := ({ s with sp := s.sp + 1 } : State).frUnpack (s.mem.word s.sp)) hstack hpc
    have hsp : s.sp + 1 + 1 = s.sp + 2 := by ring
    have hpops : s.popFrame none [FrameItem.pc, .fr].reverse =
        ({ (({ s with sp := s.sp + 1 } : State).frUnpack (s.mem.word s.sp)) with sp := s.sp + 1 + 1 },
          some (s.mem.word (s.sp + 1))) := by
      simp only [List.reverse_cons, List.reverse_nil, List.nil_append, List.cons_append, State.popFrame,
        pop_fullDescending hstack hfr, State.restoreItem, hsecond]
      rfl
    rw [← hsp]
    exact exec_rti_of_popFrame hframe hpops

/-! Trap return after trap entry (R204, R205). -/

/-- `h` with what a frame `l` saved in `s` put back. -/
def restored (s h : State) (l : List FrameItem) : State := { h with
  ac := if FrameItem.ac ∈ l then s.ac else h.ac
  ix := if FrameItem.ix ∈ l then s.ix else h.ix
  iy := if FrameItem.iy ∈ l then s.iy else h.iy
  cf := if FrameItem.fr ∈ l then s.cf else h.cf
  ovf := if FrameItem.fr ∈ l then s.ovf else h.ovf }

theorem popFrame_append (s : State) (new : Option Word) (l l' : List FrameItem) :
    s.popFrame new (l ++ l') = (s.popFrame new l).1.popFrame (s.popFrame new l).2 l' := by
  induction l generalizing s new with
  | nil => rfl
  | cons x rest ih => exact ih _ _

/-- One saved word put back adds its item to what is restored. -/
theorem restoreItem_saved {s h : State} {ret w : Word} {x : FrameItem} (hsaved : ItemSaved s ret x w)
    (hbits : s.params.frCfBit ≠ s.params.frOvfBit) (hparams : h.params = s.params) (l : List FrameItem)
    (sp : Word) (new : Option Word) :
    ({ restored s h l with sp := sp } : State).restoreItem new w x =
      ({ restored s h (x :: l) with sp := sp }, if x = .pc then some ret else new) := by
  cases x with
  | pc => cases hsaved; simp [State.restoreItem, restored]
  | fr =>
    obtain ⟨hcf, hovf⟩ := hsaved hbits
    simp [State.restoreItem, restored, State.frUnpack, State.setFlags_eq, State.setCf, State.setOvf, hparams,
      hcf, hovf, -BitVec.getLsbD_eq_getElem]
  | ac => cases hsaved; simp [State.restoreItem, restored, State.setAc]
  | ix => cases hsaved; simp [State.restoreItem, restored, State.setIx]
  | iy => cases hsaved; simp [State.restoreItem, restored, State.setIy]

/-- The pops of a frame, last item to first, undo its pushes: SP comes back, each item is put back, and PC's word
is the return address. -/
theorem popFrame_of_stored {s h : State} {ret : Word} (hbits : s.params.frCfBit ≠ s.params.frOvfBit)
    (hparams : h.params = s.params) {l : List FrameItem} {sp spEnd : Word} {before after : Memory}
    (hlen : l.length < 65536) (hstored : FrameStored s ret l sp before spEnd after) (hsp : h.sp = spEnd)
    (hslots : ∀ a ∈ frameSlots s l sp, kindAt s.params a = .ram ∧ h.mem.word a = after.word a) :
    h.popFrame none l.reverse =
      ({ restored s h l with sp := sp }, if FrameItem.pc ∈ l then some ret else none) := by
  induction l generalizing sp before with
  | nil =>
    subst hsp
    cases hstored.1
    rfl
  | cons x rest ih =>
    obtain ⟨w, mid, hsaved, hword, hrest⟩ := hstored
    have hrestlen : rest.length < 65536 := by simp at hlen; omega
    have hpops := ih hrestlen hrest fun a ha => hslots a (List.mem_cons_of_mem _ ha)
    obtain ⟨hram, hsame⟩ := hslots _ List.mem_cons_self
    have hkept : after.word (s.setSp sp).pushSlot = w := by
      rw [frameStored_word hrest fun a ha _ hba => pushSlot_not_mem_frameSlots hrestlen (hba ▸ ha)]
      exact word_of_wordStored hword hram
    have hpop := pop_after_push (s := s.setSp sp)
      (h := { restored s h rest with sp := (s.setSp sp).spAfterPush }) hram hparams rfl (hsame.trans hkept)
    rw [List.reverse_cons, popFrame_append, hpops]
    simp only [State.popFrame, hpop]
    rw [restoreItem_saved hsaved hbits hparams]
    refine Prod.ext rfl ?_
    by_cases hx : FrameItem.pc = x
    · simp [hx]
    · simp [hx, Ne.symm hx]

/-- A frame without repeats has at most one of each item. -/
theorem frame_length_le {l : List FrameItem} (h : l.Nodup) : l.length ≤ 5 := by
  have hall : l ⊆ [.pc, .fr, .ac, .ix, .iy] := fun x _ => by cases x <;> decide
  exact (List.subperm_of_subset h hall).length_le

/-- Settles O31: BRK stores the frame, and RTI's pops find it as it was stored. -/
theorem rtiUndoesTrapEntry : Obligations.RtiUndoesTrapEntry := by
  intro s t h haccepted hbrk hparams hsp hslots
  obtain ⟨hbits, hnodup, hpc⟩ := acceptedParams_iff.mp haccepted
  obtain ⟨mem, sp, n, pc, henter, hstored, -⟩ := trapEnter_stored s (s.pc + 1) 0xFFFE
  rw [exec_brk, henter] at hbrk
  cases hbrk
  have hlen : s.params.trapFrame.length < 65536 := by
    have := frame_length_le hnodup
    omega
  have hpops := popFrame_of_stored hbits hparams hlen hstored hsp hslots
  rw [if_pos hpc] at hpops
  exact exec_rti_of_popFrame (congrArg Params.trapFrame hparams) hpops

end Sys2Proof.Traps

/-! PROOFS. The instruction boundary (30_encoding.md R58, 60_exceptions.md R207 to R210): what a fetch answers
from the words at PC, when the interrupt is taken, when the machine is halted, and the statements settled with
them. -/

namespace Sys2Proof.Boundaries

open Sys2Proof.Machine Sys2Proof.Claims Sys2Proof.Encoding Sys2Proof.Decoding Sys2Proof.Storage
open Sys2Proof.Execution Sys2Proof.Frames Sys2Proof.TwoWord

/-! The level of irq (R207). -/

theorem sampleIrq_state (s : State) :
    ∃ n, s.sampleIrq.2 = { s with irqScript := s.irqScript.tail, draws := n } := by
  obtain ⟨b, n, hirq, -⟩ := s.sampleIrq_spec
  exact ⟨n, by rw [hirq]⟩

theorem sampleIrq_of_cons {s : State} {b : Bool} {l : List Bool} (h : s.irqScript = b :: l) :
    s.sampleIrq = (b, { s with irqScript := l }) := by
  simp only [State.sampleIrq, h]
  rfl

/-! The fetch (R57, R58). -/

section Fetch

variable {s : State}

theorem fetchInstr_of_implied (h : Readable s s.pc) {i : Instr}
    (hmean : opcodeMeaning (s.mem.word s.pc) = some (.implied i)) : s.fetchInstr = .ok (i, s) := by
  simp only [State.fetchInstr, s.fetchWord_of_loaded h.1 h.2, hmean]

theorem fetchInstr_of_operand (h : Readable s s.pc) (h' : Readable s (s.pc + 1)) {make : Word → Instr}
    (hmean : opcodeMeaning (s.mem.word s.pc) = some (.operand make)) :
    s.fetchInstr = .ok (make (s.mem.word (s.pc + 1)), s) := by
  simp only [State.fetchInstr, s.fetchWord_of_loaded h.1 h.2, hmean, s.fetchWord_of_loaded h'.1 h'.2]

theorem fetchInstr_of_undefined (h : Readable s s.pc) (hlen : opcodeLength (s.mem.word s.pc) = none) :
    s.fetchInstr = .error (.undefinedOpcode (s.mem.word s.pc) s) := by
  simp only [State.fetchInstr, s.fetchWord_of_loaded h.1 h.2, opcodeLength_eq_none_iff.mp hlen]

theorem fetchInstr_of_unloaded (hpresent : kindAt s.params s.pc ≠ .absent) (hloaded : s.mem.loaded s.pc = false) :
    s.fetchInstr = .error (.unloadedFetch s.pc s) := by
  simp only [State.fetchInstr, s.fetchWord_of_unloaded hpresent hloaded]

/-- The two words at PC are read as the decoder reads them; the second only for a two-word instruction. -/
theorem fetchInstr_of_decode {i : Instr} {rest : List Word} (h : Readable s s.pc)
    (hopd : i.operand ≠ none → Readable s (s.pc + 1))
    (hdec : decode [s.mem.word s.pc, s.mem.word (s.pc + 1)] = .ok (i, rest)) : s.fetchInstr = .ok (i, s) := by
  cases hmean : opcodeMeaning (s.mem.word s.pc) with
  | none => simp [decode, hmean] at hdec
  | some om =>
    cases om with
    | implied j =>
      simp only [decode, hmean] at hdec
      cases hdec
      exact fetchInstr_of_implied h hmean
    | operand make =>
      simp only [decode, hmean] at hdec
      cases hdec
      obtain ⟨f, hmake, -⟩ := wf_of_opcodeMeaning_operand hmean (s.mem.word (s.pc + 1))
      exact fetchInstr_of_operand h (hopd (by rw [hmake]; nofun)) hmean

theorem fetchInstr_of_unloaded_operand (h : Readable s s.pc) (hlen : opcodeLength (s.mem.word s.pc) = some 2)
    (hpresent : kindAt s.params (s.pc + 1) ≠ .absent) (hloaded : s.mem.loaded (s.pc + 1) = false) :
    s.fetchInstr = .error (.unloadedFetch (s.pc + 1) s) := by
  cases hmean : opcodeMeaning (s.mem.word s.pc) with
  | none => simp [opcodeLength_eq_none_iff.mpr hmean] at hlen
  | some om =>
    cases om with
    | implied j => simp [opcodeLength_of_implied hmean] at hlen
    | operand make =>
      simp only [State.fetchInstr, s.fetchWord_of_loaded h.1 h.2, hmean, s.fetchWord_of_unloaded hpresent hloaded]

end Fetch

/-! The step (R58). -/

section Step

variable {s : State}

theorem step_of_fetched (h : Fetches s) {i : Instr} {t : State} (hfetch : s.sampleIrq.2.fetchInstr = .ok (i, t)) :
    step s = exec i t := by
  rw [step_of_fetch s h.1 h.2.1 h.2.2, hfetch]

theorem step_of_fetch_error (h : Fetches s) {e : Fault} (hfetch : s.sampleIrq.2.fetchInstr = .error e) :
    step s = .fault e := by
  rw [step_of_fetch s h.1 h.2.1 h.2.2, hfetch]

/-- R208: the request is taken before anything is fetched. -/
theorem step_of_interrupt (h : TakesInterrupt s) :
    step s = .next (s.sampleIrq.2.trapEnter s.pc s.params.irqAddress) := by
  obtain ⟨hparams, hhalt, hie, hirq⟩ := h
  simp [step, boundary, hparams, hhalt, hie, hirq]

theorem step_of_decode (h : Fetches s) {i : Instr} {rest : List Word} (hpc : Readable s s.pc)
    (hopd : i.operand ≠ none → Readable s (s.pc + 1))
    (hdec : decode [s.mem.word s.pc, s.mem.word (s.pc + 1)] = .ok (i, rest)) :
    step s = exec i s.sampleIrq.2 := by
  obtain ⟨n, hirq⟩ := sampleIrq_state s
  refine step_of_fetched h ?_
  rw [hirq]
  exact fetchInstr_of_decode hpc hopd hdec

end Step

/-- Settles O46. -/
theorem stepRunsTheDecodedInstruction : Obligations.StepRunsTheDecodedInstruction :=
  fun s _ _ hfetches hpc hopd hdec => ⟨step_of_decode hfetches hpc hopd hdec, sampleIrq_state s⟩

/-- Settles O47: the three ways a fetch stops. -/
theorem undefinedFetchFaults : Obligations.UndefinedFetchFaults := by
  intro s hfetches
  obtain ⟨n, hirq⟩ := sampleIrq_state s
  have hfault {e : Fault}
      (hfetch : State.fetchInstr { s with irqScript := s.irqScript.tail, draws := n } = .error e) :
      step s = .fault e :=
    step_of_fetch_error hfetches (by rw [hirq, hfetch])
  exact ⟨fun hpc hlen => ⟨n, hfault (fetchInstr_of_undefined hpc hlen)⟩,
    fun hpresent hloaded => ⟨n, hfault (fetchInstr_of_unloaded hpresent hloaded)⟩,
    fun hpc hlen hpresent hloaded => ⟨n, hfault (fetchInstr_of_unloaded_operand hpc hlen hpresent hloaded)⟩⟩

/-- Settles O48. -/
theorem interruptIsTakenAtTheBoundary : Obligations.InterruptIsTakenAtTheBoundary :=
  fun s h => ⟨step_of_interrupt h, sampleIrq_state s⟩

/-- Settles O49: the level at the coming boundary is that of the script, and IE is what the instruction made
it. -/
theorem enablesActAtOnce : Obligations.EnablesActAtOnce := by
  intro i s t l hparams hhalt hscript hexec
  have hkeeps := exec_keeps hexec
  have hirq := sampleIrq_of_cons (hkeeps.irqScript.trans hscript)
  have htparams : acceptedParams t.params = true := hkeeps.params ▸ hparams
  have hthalt (hne : i ≠ .hlt) : t.halt = false := by rw [hkeeps.halt, if_neg hne, hhalt]
  refine ⟨fun hi => ?_, ?_⟩
  · have hie : t.ie = true := by rw [hkeeps.ie, if_pos hi]
    have hne : i ≠ .hlt := by rcases hi with rfl | rfl <;> decide
    rw [step_of_interrupt ⟨htparams, hthalt hne, hie, by rw [hirq]⟩, hirq, hkeeps.params]
  · rintro rfl j rest hpc hopd hdec
    rw [step_of_decode ⟨htparams, hthalt (by decide), .inl hkeeps.ie⟩ hpc hopd hdec, hirq]

/-! The end of a run (R146). -/

theorem fetchInstr_error_ne_halted {s : State} {e : Fault} (h : s.fetchInstr = .error e) : e ≠ .halted := by
  rintro rfl
  unfold State.fetchInstr at h
  rcases s.fetchWord_spec s.pc with ⟨hfetch, -⟩ | ⟨hfetch, -⟩
  · rw [hfetch] at h
    simp only at h
    split at h
    next => cases h
    next => cases h
    next make _ =>
      rcases (s.readWord s.pc).2.fetchWord_spec (s.pc + 1) with ⟨hopd, -⟩ | ⟨hopd, -⟩ <;>
        · rw [hopd] at h
          cases h
  · rw [hfetch] at h
    cases h

theorem store_ne_halted (r : Reg) (f : Form) (m : Word) (s : State) :
    exec (r.storeInstr f m) s ≠ .fault .halted := by
  intro h
  by_cases hne : f = .immediate
  · subst hne
    cases (exec_store_immediate s m r).symm.trans h
  · obtain ⟨_, _, -, hstore⟩ := exec_store s m r hne
    cases hstore.symm.trans h

theorem count_ne_halted (i : Instr) (f : Form) (m : Word) (count : Word → Word) (s : State) :
    countAndSkip i f m count s ≠ .fault .halted := by
  intro h
  cases hadm : FormSet.f11.admits f with
  | false => cases (countAndSkip_of_not_admits s m hadm i count).symm.trans h
  | true =>
    obtain ⟨_, _, -, -, ⟨_, hnext, -⟩ | ⟨-, _, _, hstop, -⟩ | ⟨-, _, hstop, -⟩⟩ :=
      countAndSkip_stops (m := m) (s := s) hadm i count
    · cases hnext.symm.trans h
    · cases hstop.symm.trans h
    · cases hstop.symm.trans h

/-- No instruction answers the fault of a halted machine: where it does not complete it is of no listed form, or
it stops in its skip, or it is refused. -/
theorem exec_ne_halted (i : Instr) (s : State) : exec i s ≠ .fault .halted := by
  intro h
  cases i with
  | rti =>
    by_cases hpc : FrameItem.pc ∈ s.params.trapFrame
    · obtain ⟨_, _, _, _, _, _, _, _, hret, -⟩ := s.trapReturn_spec hpc
      cases hret.symm.trans h
    · cases (trapReturn_of_no_pc hpc).symm.trans h
  | jmp f m | joz f m | jnz f m | jpl f m | jmi f m | joc f m | jnc f m | jov f m | jnv f m =>
    simp [exec_jmp, exec_joz, exec_jnz, exec_jpl, exec_jmi, exec_joc, exec_jnc, exec_jov, exec_jnv] at h
  | sta f m => exact store_ne_halted .ac f m s h
  | sts f m => exact store_ne_halted .sp f m s h
  | stx f m => exact store_ne_halted .ix f m s h
  | sty f m => exact store_ne_halted .iy f m s h
  | inp f m =>
    by_cases hne : f = .immediate
    · subst hne
      cases (exec_inp_immediate s m).symm.trans h
    · obtain ⟨_, _, _, -, hinp, -⟩ := exec_inp s m hne
      cases hinp.symm.trans h
  | out f m =>
    by_cases hne : f = .immediate
    · subst hne
      cases (exec_out_immediate s m).symm.trans h
    · obtain ⟨_, _, -, hout⟩ := exec_out s m hne
      cases hout.symm.trans h
  | csr f m =>
    cases hadm : FormSet.f4.admits f with
    | false => cases (exec_csr_of_not_admits s m hadm).symm.trans h
    | true => cases (exec_csr s m hadm).symm.trans h
  | isz f m => exact count_ne_halted (.isz f m) f m (fun t => t + 1) s h
  | dsz f m => exact count_ne_halted (.dsz f m) f m (fun t => t - 1) s h
  | _ => cases h

/-- Settles O26: only the check at the boundary answers the fault of a halted machine. -/
theorem hltEndsTheRun : Obligations.HltEndsTheRun := by
  have hhalted {s : State} (hparams : acceptedParams s.params = true) (hhalt : s.halt = true) :
      step s = .fault .halted := by
    simp [step, boundary, hparams, hhalt]
  refine ⟨fun _ => rfl, fun s t hparams hhlt => ?_, fun s hparams => ⟨fun hstep => ?_, hhalted hparams⟩,
    spelledOne rfl rfl rfl⟩
  · cases hhlt
    exact hhalted hparams rfl
  · by_contra hhalt
    have hrunning : s.halt = false := by simpa using hhalt
    by_cases hirq : s.ie = false ∨ s.sampleIrq.1 = false
    · have hfetches : Fetches s := ⟨hparams, hrunning, hirq⟩
      cases hfetch : s.sampleIrq.2.fetchInstr with
      | error e =>
        rw [step_of_fetch_error hfetches hfetch] at hstep
        exact fetchInstr_error_ne_halted hfetch (Host.Outcome.fault.inj hstep)
      | ok p =>
        rw [step_of_fetched hfetches hfetch] at hstep
        exact exec_ne_halted p.1 p.2 hstep
    · simp only [not_or, Bool.not_eq_false] at hirq
      rw [step_of_interrupt ⟨hparams, hrunning, hirq⟩] at hstep
      cases hstep

/-! The corners of the post-increment (R70). -/

/-- Settles O35: (a) the pointer word is the last one stored; (b) LDA reads its pointer at its own operand
word. -/
theorem postIncrementIsCommittedLast : Obligations.PostIncrementIsCommittedLast := by
  refine ⟨fun r m s hram hword => ?_, fun s hfetches hpc hram hloaded hopcode hword => ?_⟩
  · obtain ⟨ea, n, -, hstore⟩ := exec_store s m r (f := .postInc) (by decide)
    have hpointer : (resolve .postInc m s).1.pointer = some m := by
      rw [resolve_pointer, s.readWord_of_present (by simp [hram]), hword]
    refine ⟨_, hstore, ?_⟩
    rw [bumped_of_pointer hpointer, word_stored_same hram]
  · have hpresent : kindAt s.params (s.pc + 1) ≠ .absent := by rw [hram]; decide
    have hdec : decode [s.mem.word s.pc, s.mem.word (s.pc + 1)] = .ok (.lda .postInc (s.pc + 1), []) := by
      rw [hopcode, hword]
      rfl
    obtain ⟨n, hirq⟩ := sampleIrq_state s
    rw [step_of_decode hfetches hpc (fun _ => ⟨hpresent, hloaded⟩) hdec, hirq]
    have hread : State.readWord { s with irqScript := s.irqScript.tail, draws := n } (s.pc + 1) =
        (s.pc + 1, { s with irqScript := s.irqScript.tail, draws := n }) :=
      (State.readWord_of_present { s with irqScript := s.irqScript.tail, draws := n } hpresent).trans
        (by simp only [hword])
    obtain ⟨mem, hlda, hstored⟩ := lda_of_pointer (resolve_postInc hread) hpresent
    have hnext : s.pc + 1 + 1 = s.pc + 2 := by rw [BitVec.add_assoc]; rfl
    exact ⟨_, hlda, hword, (word_of_wordStored hstored hram).trans hnext, rfl⟩

end Sys2Proof.Boundaries

/-! PROOFS. The Extended count of R242 against the one-word accesses of R33 and R40 (R241): each column of the
table counts the accesses of its kind of instruction, and the statement settled with that. -/

namespace Sys2Proof.Accesses

open Sys2Proof.Machine Sys2Proof.Claims Sys2Proof.Timing

/-! The Extended count of each column (R242). -/

theorem loadCost_extended (f : Form) : (loadCost f).extended = 2 + pointerAccesses f + valueAccesses f := by
  cases f <;> rfl

theorem arithCost_extended (f : Form) : (arithCost f).extended = 2 + pointerAccesses f + valueAccesses f := by
  cases f <;> rfl

theorem branchCost_extended (f : Form) : (branchCost f).extended = 2 + pointerAccesses f + valueAccesses f := by
  cases f <;> rfl

theorem callCost_extended (f : Form) : (callCost f).extended = 3 + pointerAccesses f + valueAccesses f := by
  cases f <;> rfl

theorem storeCost_extended (f : Form) : (formCost ⟨7, 3⟩ f).extended = 3 + pointerAccesses f := by
  cases f <;> rfl

/-- The post-increment indexed forms are the printed exception (90_conflicts.md C5). -/
theorem countCost_extended {f : Form} (h : ∀ x, f ≠ .postIncIndexed x) :
    (countCost f).extended = 4 + pointerAccesses f := by
  cases f with
  | postIncIndexed x => exact absurd rfl (h x)
  | _ => rfl

/-! The Extended count of each kind of two-word instruction is the number of its accesses. -/

section Kinds

variable {mk : Form → Word → Instr} {f : Form} {m : Word}

theorem extended_load (h : mk ∈ [.lda, .lds, .ldx, .ldy]) :
    (instrCost (mk f m)).map Cost.extended = some (2 + pointerAccesses f + valueAccesses f) := by
  rw [instrCost_load f m h, Option.map_some, loadCost_extended]

theorem extended_arith (h : mk ∈ [.add, .adc, .sub, .sbc, .and, .ora, .xor, .jmp]) :
    (instrCost (mk f m)).map Cost.extended = some (2 + pointerAccesses f + valueAccesses f) := by
  rw [instrCost_arith f m h, Option.map_some, arithCost_extended]

theorem extended_branch (h : mk ∈ [.joz, .jnz, .jpl, .jmi, .joc, .jnc, .jov, .jnv]) :
    (instrCost (mk f m)).map Cost.extended = some (2 + pointerAccesses f + valueAccesses f) := by
  rw [instrCost_branch f m h, Option.map_some, branchCost_extended]

theorem extended_store (h : mk ∈ [.sta, .sts, .stx, .sty, .inp, .out]) (hadm : FormSet.f12.admits f = true) :
    (instrCost (mk f m)).map Cost.extended = some (3 + pointerAccesses f) := by
  rw [instrCost_store f m h, if_pos hadm, Option.map_some, storeCost_extended]

theorem extended_call (hadm : FormSet.f4.admits f = true) :
    (instrCost (.csr f m)).map Cost.extended = some (3 + pointerAccesses f + valueAccesses f) := by
  rw [instrCost_call, if_pos hadm, Option.map_some, callCost_extended]

theorem extended_count (h : mk ∈ [.isz, .dsz]) (hadm : FormSet.f11.admits f = true)
    (hform : ∀ x, f ≠ .postIncIndexed x) :
    (instrCost (mk f m)).map Cost.extended = some (4 + pointerAccesses f) := by
  rw [instrCost_count f m h, if_pos hadm, Option.map_some, countCost_extended hform]

end Kinds

/-- Settles O60: a two-word instruction counts the accesses of its kind, a one-word instruction its opcode word
and the stack word it moves, if any. -/
theorem extendedCountsTheAccesses : Obligations.ExtendedCountsTheAccesses := by
  intro i hwf hexplained
  cases i with
  | inc | dec | brk | rti => cases hexplained
  | lda f m | lds f m | ldx f m | ldy f m => exact extended_load (by simp)
  | add f m | adc f m | sub f m | sbc f m | and f m | ora f m | xor f m | jmp f m =>
    exact extended_arith (by simp)
  | joz f m | jnz f m | jpl f m | jmi f m | joc f m | jnc f m | jov f m | jnv f m =>
    exact extended_branch (by simp)
  | sta f m | sts f m | stx f m | sty f m | inp f m | out f m => exact extended_store (by simp) hwf
  | csr f m => exact extended_call hwf
  | isz f m | dsz f m =>
    refine extended_count (by simp) hwf fun x hx => ?_
    subst hx
    cases hexplained
  | _ => rfl

end Sys2Proof.Accesses
